-- ==== Sys2Proof/Word.lean ====
section
/-! DEFINITION. The bit widths of the drive block (spec 00_scope.md R7, R9): every value the
block holds or carries on a port is an unsigned word of one of these widths. -/

namespace Sys2Proof

/-- An operation word, offered on port `opw` (R70): bit 8 is the kind `K`, bits 7..0 the byte `B`. -/
abbrev OpWord := BitVec 9

/-- A serial byte, or the byte field `B` of an operation word (R70). -/
abbrev Byte := BitVec 8

/-- A power level on port `power_in`: 4 bits, legal values 0..9 (R7, R20). -/
abbrev Power := BitVec 4

/-- A duty percent in a duty register: 7 bits (R7, R26). -/
abbrev Percent := BitVec 7

/-- A value of the settle counter: 16 bits (R7, R25). -/
abbrev Count := BitVec 16

/-- A value of the event-code register: 4 bits (R7, R28). -/
abbrev EvtCode := BitVec 4

/-- The status word: 16 bits (R7, R32). -/
abbrev StatusWord := BitVec 16

end Sys2Proof
end

