-- ==== Sys2Proof/Config.lean ====
section
/-! DEFINITION. The build parameters (spec 00_scope.md R7, R8) and the parameters of the host
contract (49_host_environment.md R170, R174, R177; 93_implementation_defined.md U14, U16).

A `Config` is plain data and stands as a field of the machine's state that no step writes, so a
statement about every state holds for every admitted parameter value, as R8 and D1, D13, D24 of
92_eei_decisions.md ask of a proof (DESIGN CHOICE, log entry 6). -/

namespace Sys2Proof

/-- The host's RampDirection (R170): which way TIME_CONTROL moves Power. -/
inductive Ramp where
  | increasing
  | decreasing
  deriving DecidableEq, Repr

/-- The parameters of the host contract. They belong to the environment, not to the block. -/
structure HostParams where
  /-- `RAMP_INIT`, the initial RampDirection (R170, D24, U14). -/
  rampInit : Ramp
  /-- `PERIOD_TICKS`, the ticks the auto modes wait in each iteration (R174, D7). -/
  periodTicks : Nat
  /-- The clock cycles from one strobe of the `tick` time base to the next, one `TICK_PERIOD` (R234);
  0 counts as 1. No rule gives the clock's frequency: DESIGN CHOICE, log entry 22. -/
  tickCycles : Nat
  /-- The button code that toggles MANUAL and LIGHT_CONTROL (R177, U16). -/
  lightTrigger : Nat
  /-- The button code that toggles MANUAL and TIME_CONTROL (R177, U16). -/
  timeTrigger : Nat
  deriving DecidableEq, Repr

/-- `P_duty` of R8: the property of every `DUTY_TABLE` a model admits. -/
abbrev PDuty (table : Vector Percent 10) : Prop :=
  (∀ p : Fin 9, table[p.val] ≤ table[p.val + 1]) ∧ (∀ p : Fin 10, table[p.val] ≤ 100#7) ∧
    table[0] = 0#7 ∧ table[9] = 100#7

/-- A `DUTY_TABLE`, {0..9} -> {0..100} (R7): the percents of the ten legal power levels, together
with the check that they satisfy `P_duty`, so that no other table can be built (R8; DEDUCED, log
entry 19; safe). -/
structure DutyTable where
  values : Vector Percent 10
  admitted : decide (PDuty values) = true
  deriving DecidableEq, Repr

/-- Admit a table of values, or refuse one that fails `P_duty` (R8). -/
def DutyTable.ofValues? (values : Vector Percent 10) : Option DutyTable :=
  if h : decide (PDuty values) = true then some ⟨values, h⟩ else none

/-- The parameters fixed when the block is built (R7), with the host contract's beside them. -/
structure Config where
  /-- `DUTY_TABLE`: the percent of each legal power level 0..9. -/
  dutyTable : DutyTable
  /-- `SETTLE_TICKS`: 0..65535 ticks of settle delay. -/
  settleTicks : Count
  /-- `TICK_PERIOD`, in microseconds; only wall-clock figures use it (R151, R247).
  DEDUCED, log entry 17; safe. -/
  tickPeriodUs : Nat
  /-- `NOTIFY_NOOP`: whether a no-op command emits an event. -/
  notifyNoop : Bool
  /-- The host contract's parameters. -/
  host : HostParams
  deriving DecidableEq, Repr

end Sys2Proof
end

