-- ==== Sys2Proof/Machine/Params.lean ====
section
/-! DEFINITION. The default parameters (00_scope.md R7) and the mapping formula `DUTY_SPEC41` they
take their duty table from (40_duty_mapper.md R101, R102). -/

namespace Sys2Proof.Machine

/-- The 8-bit unsigned sum of R102: `zext_8(p)*10 + (p != 0 ? 10 : 0) + (p == 1 ? 5 : 0)`. -/
def dutySum (p : Power) : BitVec 8 :=
  p.setWidth 8 * 10#8 + (if p ≠ 0#4 then 10#8 else 0#8) + (if p = 1#4 then 5#8 else 0#8)

/-- The clamp of R102, `min(sum, 100)`: below 128, so it fits the 7-bit duty register. -/
def dutySpec41 (p : Power) : Percent :=
  if 100#8 < dutySum p then 100#7 else (dutySum p).setWidth 7

/-- The default `DUTY_TABLE`, as R101 tabulates it; it satisfies `P_duty`. -/
def dutySpec41Table : DutyTable :=
  ⟨#v[0#7, 25#7, 30#7, 40#7, 50#7, 60#7, 70#7, 80#7, 90#7, 100#7], by decide⟩

/-- The host contract's defaults: R170 (`RAMP_INIT` increasing), R174 (1000 ticks), R177 (codes 1
and 2). A strobe of the time base in every cycle is a DESIGN CHOICE, log entry 22; unsafe for a claim
about these defaults only. -/
def defaultHostParams : HostParams :=
  { rampInit := .increasing, periodTicks := 1000, tickCycles := 1
    lightTrigger := 1, timeTrigger := 2 }

/-- The defaults of R7: `DUTY_SPEC41`, 500 ticks of 1 ms, no-op commands notified. -/
def defaultConfig : Config :=
  { dutyTable := dutySpec41Table
    settleTicks := 500#16
    tickPeriodUs := 1000
    notifyNoop := true
    host := defaultHostParams }

end Sys2Proof.Machine
end

