-- ==== Sys2Proof/Syntax.lean ====
section
/-! DEFINITION. The operations of the block's operation port: one constructor per row of
spec/opcode_table.json (30_encoding.md R70 to R74, R82). -/

namespace Sys2Proof

/-- An operation. An operation word carries no operand field (R75): the data operands are the input
levels `power_in` and `manual` of the acceptance cycle. `byte` and `word` keep the byte `B` they
were read from, so that no bit of a word is lost in decoding. -/
inductive Instr where
  /-- `F`, class CMD_F, word 0x046 (R131). -/
  | f
  /-- `R`, class CMD_R, word 0x052 (R132). -/
  | r
  /-- `S`, class CMD_S, word 0x053 (R133). -/
  | s
  /-- `NOP`, word 0x100 (R139). -/
  | nop
  /-- `DRIVE`, word 0x101 (R110). -/
  | drive
  /-- `FFWD`, word 0x102 (R138). -/
  | ffwd
  /-- `BYTE`, class IGN: a serial byte other than 'F', 'R' and 'S' (R72, R140). -/
  | byte (b : Byte)
  /-- `WORD`, class ILL: a reserved internal word, 0x103..0x1FF (R73, R141). -/
  | word (b : Byte)
  deriving DecidableEq, Repr

/-- The table's mnemonic of an operation (spec/opcode_table.json, 30_encoding.md R78). -/
def Instr.mnemonic : Instr → String
  | .f => "F"
  | .r => "R"
  | .s => "S"
  | .nop => "NOP"
  | .drive => "DRIVE"
  | .ffwd => "FFWD"
  | .byte _ => "BYTE"
  | .word _ => "WORD"

/-- Whether the operation belongs to the internal space, `K = 1` (R70, R73). -/
def Instr.isInternal : Instr → Bool
  | .f | .r | .s | .byte _ => false
  | .nop | .drive | .ffwd | .word _ => true

end Sys2Proof
end

