-- ==== Sys2Proof/Machine/State.lean ====
section
/-! DEFINITION. The state of the machine: the drive block (10_state.md R21), its input ports in the
current cycle (R20), and the environment that chooses the inputs of later cycles (00_scope.md R6),
all plain data. -/

namespace Sys2Proof.Machine

/-! ### The drive block -/

/-- The motor direction, the source's Operation (R11, R22). The code 0b11 is left out (U8).
DEDUCED, log entry 8; safe. -/
inductive Direction where
  | stop
  | forward
  | reverse
  deriving DecidableEq, Repr

/-- A direction a reversal can enter: FORWARD or REVERSE (R24, R137). -/
inductive Turn where
  | forward
  | reverse
  deriving DecidableEq, Repr

/-- The sequencer phase (R11, R23). -/
inductive Phase where
  | idle
  | settle
  deriving DecidableEq, Repr

/-- The block's state, exactly the ten elements of R21, in its order. -/
structure Block where
  /-- `OP`, 2 bits. -/
  op : Direction
  /-- `PH`, 1 bit. -/
  ph : Phase
  /-- `TGT`, 2 bits: `none` is 0b00 (R24). -/
  tgt : Option Turn
  /-- `CNT`, the settle counter (R25, R207). -/
  cnt : Count
  /-- `DUTY_F`, the forward-channel percent, the source's duty(2) (R26). -/
  dutyF : Percent
  /-- `DUTY_R`, the reverse-channel percent, the source's duty(3) (R26). -/
  dutyR : Percent
  /-- `ERR_PWR`, sticky (R27, R201). -/
  errPwr : Bool
  /-- `ERR_ILL`, sticky (R27, R202). -/
  errIll : Bool
  /-- `EVT_V` (R28). -/
  evtV : Bool
  /-- `EVT_CODE` (R28). -/
  evtCode : EvtCode
  deriving DecidableEq, Repr

/-- The reset values of R21 and R230. There is no unreset state (R232; DEDUCED, log entry 9; safe). -/
def Block.reset : Block :=
  { op := .stop, ph := .idle, tgt := none, cnt := 0#16, dutyF := 0#7, dutyR := 0#7
    errPwr := false, errIll := false, evtV := false, evtCode := 0#4 }

/-- The input ports of R20, as sampled in one cycle. `clk` is the step itself. -/
structure Ports where
  rst : Bool
  opwValid : Bool
  opw : OpWord
  powerIn : Power
  manual : Bool
  tick : Bool
  deriving DecidableEq, Repr

/-! ### The environment: the host software of 49_host_environment.md and the stimulus script -/

/-- The host's Mode (R170). -/
inductive Mode where
  | manual
  | lightControl
  | timeControl
  deriving DecidableEq, Repr

/-- A notification the host itself makes; no text is given for any (R171, R175, R177).
DESIGN CHOICE, log entry 15; safe. -/
inductive HostNote where
  /-- `notify("suppressed")`: updatePower in STOP (R171). -/
  | suppressed
  /-- A digit outside MANUAL (R175). -/
  | digitRejected
  /-- A toggle, naming the resulting mode (R177). -/
  | modeIs (m : Mode)
  /-- A trigger for the other pair, a no-op (R177, D23). -/
  | triggerIgnored
  deriving DecidableEq, Repr

/-- The host's state (R170), with the notifications it has made. -/
structure HostState where
  /-- `Power`, kept in 0..9. -/
  power : Fin 10
  /-- `Mode`. -/
  mode : Mode
  /-- `SensorValue`, an unsigned ADC reading. -/
  sensor : Nat
  /-- `RampDirection`. -/
  ramp : Ramp
  /-- The serial inbox: its pending flag and byte (R176). -/
  serial : Option Byte
  /-- The button inbox: its pending flag and trigger code (R176). -/
  button : Option Nat
  /-- Every notification the host has made, oldest first: they leave the machine, and the model keeps
  them all. DESIGN CHOICE, log entry 15; safe. -/
  sent : List HostNote
  deriving DecidableEq, Repr

/-- The host's boot values (R170, R178, R233). No rule gives `SensorValue`: 0, DESIGN CHOICE, log entry
13; unsafe in form, and never read before a sample. -/
def HostState.boot (p : HostParams) : HostState :=
  { power := 9, mode := .manual, sensor := 0, ramp := p.rampInit
    serial := none, button := none, sent := [] }

/-- One action of the host's dispatch loop (R172, R174). -/
inductive HostAct where
  /-- Steps 1 and 2: poll the serial inbox. -/
  | serial
  /-- Step 3: poll the button inbox. -/
  | mode
  /-- Step 4, first part: in an auto mode, offer FFWD. -/
  | force
  /-- Step 4, second part: in an auto mode, `updatePower()`. `sample` is what the sensor answers in
  LIGHT_CONTROL, at once (DESIGN CHOICE, log entry 23), `none` when it never signals ready (R179). -/
  | regulate (sample : Option Nat)
  /-- Step 4, last part: in an auto mode, wait `PERIOD_TICKS` ticks. -/
  | wait
  deriving DecidableEq, Repr

/-- What the environment does next, one line of a stimulus script. -/
inductive Line where
  /-- One cycle with any input values at all (R6: the environment "chooses the inputs of each cycle"). -/
  | cycle (p : Ports)
  /-- An operation line: offer a word until it is accepted (R78, R80). -/
  | op (w : OpWord)
  /-- `POWER n` (R79). -/
  | power (n : Power)
  /-- `MANUAL b` (R79). -/
  | manual (b : Bool)
  /-- `TICKS n` (R79). -/
  | ticks (n : Nat)
  /-- `IDLE n` (R79). -/
  | idle (n : Nat)
  /-- `RESET` (R79). It resets the block and leaves the host software as it is (DESIGN CHOICE, log entry
  21; unsafe for claims about the host after a block reset in mid-run). -/
  | reset
  /-- The host software boots: its state takes R170's values (R178). What it has already sent stays
  sent (DESIGN CHOICE, log entry 15; safe). -/
  | boot
  /-- The serial receive interrupt puts a byte into the host's inbox, over one still pending (R176;
  DESIGN CHOICE, log entry 12; unsafe for claims that no byte is lost). -/
  | rxByte (b : Byte)
  /-- The button interrupt puts a trigger code into the host's inbox, over one still pending (R176 says
  "may overwrite" of bytes only; DESIGN CHOICE, log entry 12; unsafe for claims that no trigger is
  lost). -/
  | button (code : Nat)
  /-- The host starts the `tick` time base (R234, step 4); its first strobe comes after `wait` cycles
  without one, "at any point in the first period" (R151). -/
  | startTicks (wait : Nat)
  /-- The host waits for `n` more ticks of the time base (R174). -/
  | awaitTicks (n : Nat)
  /-- The host software takes one action (R172). -/
  | host (a : HostAct)
  deriving DecidableEq, Repr

/-- The environment (DESIGN CHOICE, log entries 1 and 10) after the current cycle's inputs: the script
still to run, whether the current cycle belongs to an operation line that is held until accepted
(R80), the host software, and the time base. -/
structure Env where
  script : List Line
  hold : Bool
  host : HostState
  /-- The `tick` time base (R234, R245): `none` until the host starts it, `some k` when `k` cycles
  without a strobe come before the next strobe. DESIGN CHOICE, log entry 22. -/
  timeBase : Option Nat
  deriving DecidableEq, Repr

/-! ### Reasons to stop, and the whole state -/

/-- The two error conditions of R200. 60_exceptions.md R201 and R202 say that a model treats each as
a fault, and 93_implementation_defined.md says what that is: "a model records a fault, and the run
is never a good final state". So a fault is RECORDED in `State.fault` while the block goes on as the
spec says; no step of this model answers `Host.Outcome.fault`. DESIGN CHOICE, log entry 2; unsafe
for a claim about a faulted run that does not take `FaultFree` as a premise. -/
inductive Fault where
  /-- Recorded by a drive in direction FORWARD or REVERSE with `power_in` above 9, together with
  `ERR_PWR` (R104, R201). Safe for claims about fault-free runs: the run counts as faulted from there
  on. -/
  | powerOutOfRange
  /-- Recorded by an accepted word 0x103..0x1FF, together with `ERR_ILL` (R141, R202). Safe,
  as above. -/
  | illegalWord
  deriving DecidableEq, Repr

/-- Reasons to give an instruction no meaning. -/
inductive Refusal where
  /-- Raised only by an arm of `exec` whose instruction has no meaning yet; no arm is left. Safe. -/
  | notModelled (mnemonic : String)
  deriving DecidableEq, Repr

/-- The machine. -/
structure State where
  /-- The build parameters; no step writes them (R7, R31). -/
  cfg : Config
  /-- The drive block. -/
  block : Block
  /-- The input ports in the current cycle. -/
  inp : Ports
  /-- What the environment will do after the current cycle. -/
  env : Env
  /-- The model's own record of the run's first fault (R201, R202; log entry 2). No step clears it. -/
  fault : Option Fault
  deriving DecidableEq, Repr

/-- The ports after reset when nothing is offered: the host's levels are Power 9 and `manual = 1`
(R170, R233, R234). DESIGN CHOICE, log entry 3; unsafe. -/
def Ports.boot : Ports :=
  { rst := false, opwValid := false, opw := 0#9, powerIn := 9#4, manual := true, tick := false }

/-- The machine right after reset, with the default parameters (log entry 6) and an environment that
has nothing left to do (DESIGN CHOICE, log entry 4; unsafe). -/
def State.reset : State :=
  { cfg := defaultConfig
    block := Block.reset
    inp := Ports.boot
    env :=
      { script := [], hold := false, host := HostState.boot defaultHostParams, timeBase := none }
    fault := none }

end Sys2Proof.Machine
end

