-- ==== Sys2Proof/Machine/Operands.lean ====
section
/-! DEFINITION. What an operation reads and the values it computes: the encodings of directions and
phases (00_scope.md R11), the duty mapper (40_duty_mapper.md R103), the pair a drive writes (R12),
and the handshake (10_state.md R29). -/

namespace Sys2Proof.Machine

/-- The encoding of a direction in state and on ports (R11, R22). -/
def Direction.code : Direction → BitVec 2
  | .stop => 0b00#2
  | .forward => 0b01#2
  | .reverse => 0b10#2

/-- The encoding of a phase (R11): 1 = settling, the value of port `busy`. -/
def Phase.code : Phase → BitVec 1
  | .idle => 0#1
  | .settle => 1#1

/-- A turn as a direction. -/
def Turn.toDirection : Turn → Direction
  | .forward => .forward
  | .reverse => .reverse

/-- `opposite` of R12. -/
def Turn.opposite : Turn → Turn
  | .forward => .reverse
  | .reverse => .forward

/-- The direction in `TGT`, read as a value of `OP`: 0b00 is the code of STOP (R11, R24). -/
def targetDirection : Option Turn → Direction
  | none => .stop
  | some t => t.toDirection

/-- The mapping function of R103, total on all 16 power values. -/
def mapPower (c : Config) (p : Power) : Percent :=
  if h : p.toNat < 10 then c.dutyTable.values[p.toNat] else 100#7

/-- Whether a power value is out of the range 0..9 (R104, R201). -/
def powerIllegal (p : Power) : Bool := decide (9#4 < p)

/-- `drive(d, p)` of R12: the forward percent and the reverse percent. -/
def drivePair (c : Config) (d : Direction) (p : Power) : Percent × Percent :=
  match d with
  | .stop => (0#7, 0#7)
  | .forward => (mapPower c p, 0#7)
  | .reverse => (0#7, mapPower c p)

/-- `opw_ready` of R29. -/
def State.opwReady (s : State) : Bool := decide (s.block.ph = .idle) && !s.inp.rst

/-- A word is accepted exactly when `opw_valid` and `opw_ready` are both 1 (R29). -/
def State.accepted (s : State) : Bool := s.inp.opwValid && s.opwReady

end Sys2Proof.Machine
end

