-- ==== Sys2Proof/Machine/Flags.lean ====
section
/-! DEFINITION. The event codes (60_exceptions.md R204), the event register (10_state.md R28), the
sticky error flags (R27, R200) and the status word (R32). -/

namespace Sys2Proof.Machine

/-- The events of R204. -/
inductive Event where
  | fwd
  | rev
  | stop
  | settle
  | forcedFwd
  | noChange
  | reject
  deriving DecidableEq, Repr

/-- The code of an event on `evt_code` (R204). -/
def Event.code : Event → EvtCode
  | .fwd => 0x1#4
  | .rev => 0x2#4
  | .stop => 0x3#4
  | .settle => 0x4#4
  | .forcedFwd => 0x5#4
  | .noChange => 0x6#4
  | .reject => 0x7#4

/-- The event of entering a direction by command: `EV_FWD` or `EV_REV` (R131, R132, R150). -/
def Turn.event : Turn → Event
  | .forward => .fwd
  | .reverse => .rev

/-- `emit(e)` (R10, R28). -/
def Block.emit (e : Event) (b : Block) : Block := { b with evtV := true, evtCode := e.code }

/-- The event register in a cycle that emits nothing (R28). -/
def Block.quiet (b : Block) : Block := { b with evtV := false, evtCode := 0#4 }

/-- Set the sticky flag of an error condition (R27). -/
def Block.setFlag (f : Fault) (b : Block) : Block :=
  match f with
  | .powerOutOfRange => { b with errPwr := true }
  | .illegalWord => { b with errIll := true }

/-- A run's record of its first fault, when `f` occurs now. -/
def recordFault (f : Fault) (earlier : Option Fault) : Option Fault :=
  match earlier with
  | none => some f
  | some g => some g

/-- The status word of R32: reserved bits [15:7], then ERR_ILL, ERR_PWR, TGT, BUSY, OP. -/
def Block.status (b : Block) : StatusWord :=
  0#9 ++ BitVec.ofBool b.errIll ++ BitVec.ofBool b.errPwr ++ (targetDirection b.tgt).code ++
    b.ph.code ++ b.op.code

/-- The output ports of R20. -/
structure Outputs where
  opwReady : Bool
  dutyF : Percent
  dutyR : Percent
  opState : BitVec 2
  busy : BitVec 1
  evtValid : Bool
  evtCode : EvtCode
  status : StatusWord
  deriving DecidableEq, Repr

/-- The outputs in the current cycle (R29, R30): all but `opw_ready` are register values. -/
def State.outputs (s : State) : Outputs :=
  { opwReady := s.opwReady
    dutyF := s.block.dutyF
    dutyR := s.block.dutyR
    opState := s.block.op.code
    busy := s.block.ph.code
    evtValid := s.block.evtV
    evtCode := s.block.evtCode
    status := s.block.status }

end Sys2Proof.Machine
end

