-- ==== Sys2Proof/Machine/Ops.lean ====
section
/-! DEFINITION. The named operations over the state that the meanings are built from: the error
condition (60_exceptions.md R200), the drive (40_duty_mapper.md R104), the actions of the transition
table (41_direction_fsm.md R135 to R137), the settle step (R150) and reset (70_reset_and_hazards.md
R230). Each writes the event register once (10_state.md R28) and leaves the configuration, the input
ports and the environment alone. -/

namespace Sys2Proof.Machine

/-- Emit an event and change nothing else. -/
def State.emit (e : Event) (s : State) : State := { s with block := s.block.emit e }

/-- A cycle that changes nothing and emits nothing (R130's idle case, R139, R140). -/
def State.quiet (s : State) : State := { s with block := s.block.quiet }

/-- `set_err(flag)`, the block's form of raising an exception (R10, R200, R206). There is no trap
entry: nothing is saved and control is not redirected. The sticky flag is set, and the model records
the run's first fault (R201, R202). -/
def State.setErr (f : Fault) (s : State) : State :=
  { s with block := s.block.setFlag f, fault := recordFault f s.fault }

/-- Reset (R230): every state element takes its reset value, whatever the phase. Only this clears an
error flag (R206); there is no other return from an error. The host software is not booted (R233 is
silent on a reset in mid-run; DESIGN CHOICE, log entry 21; unsafe for claims about the host then). -/
def State.resetBlock (s : State) : State := { s with block := Block.reset }

/-- Write `OP`. -/
def State.setOp (d : Direction) (s : State) : State := { s with block := { s.block with op := d } }

/-- Write the two duty registers together (R26). -/
def State.writeDuty (pair : Percent × Percent) (s : State) : State :=
  { s with block := { s.block with dutyF := pair.1, dutyR := pair.2 } }

/-- Drive with direction `d` at the present `power_in` (R104): write the pair, and flag an
out-of-range power unless the direction is STOP, which does not use it. -/
def State.drive (d : Direction) (s : State) : State :=
  let t := s.writeDuty (drivePair s.cfg d s.inp.powerIn)
  if decide (d ≠ .stop) && powerIllegal s.inp.powerIn then t.setErr .powerOutOfRange else t

/-- From STOP, enter a direction and drive (the table's "→ FORWARD (drive)", R131, R132). -/
def State.enter (t : Turn) (s : State) : State :=
  ((s.setOp t.toDirection).drive t.toDirection).emit t.event

/-- `stop` of R135: STOP, both channels 0, `EV_STOP`. -/
def State.stopMotor (s : State) : State :=
  ((s.setOp .stop).writeDuty (0#7, 0#7)).emit .stop

/-- `noop` of R136: no state element changes; whether it notifies is `NOTIFY_NOOP`. -/
def State.noop (s : State) : State := if s.cfg.notifyNoop then s.emit .noChange else s.quiet

/-- Write the sequencer: phase, target and counter (R23 to R25). -/
def State.setSequencer (ph : Phase) (tgt : Option Turn) (cnt : Count) (s : State) : State :=
  { s with block := { s.block with ph := ph, tgt := tgt, cnt := cnt } }

/-- `begin_reversal(t)` of R137. -/
def State.beginReversal (t : Turn) (s : State) : State :=
  (((s.setOp .stop).writeDuty (0#7, 0#7)).setSequencer .settle (some t) s.cfg.settleTicks).emit
    .settle

/-- The event of a completed settle: `s.TGT == FORWARD ? EV_FWD : EV_REV` (R150). -/
def completionEvent (tgt : Option Turn) : Event :=
  if tgt = some .forward then .fwd else .rev

/-- The settle completion of R150, in the cycle that sees `CNT = 0`. With `TGT = 0b00`, which is
unreachable, the power is not checked (R104; DEDUCED, log entry 7; safe). -/
def State.completeSettle (s : State) : State :=
  let d := targetDirection s.block.tgt
  (((s.setOp d).drive d).setSequencer .idle none s.block.cnt).emit (completionEvent s.block.tgt)

/-- `settle_step` of R150: the test of `CNT = 0` comes before the tick. Without a tick the phase goes
on for ever (R207; DEDUCED, log entry 16; safe). -/
def State.settleStep (s : State) : State :=
  if s.block.cnt = 0#16 then s.completeSettle
  else if s.inp.tick then
    (s.setSequencer s.block.ph s.block.tgt (s.block.cnt - 1#16)).quiet
  else s.quiet

end Sys2Proof.Machine
end

