-- ==== Sys2Proof/Machine/Commands.lean ====
section
/-! DEFINITION. The direction commands F, R and S (41_direction_fsm.md R131 to R137). -/

namespace Sys2Proof.Machine

/-- `F` (R131): go forward. `manual` is not read. -/
def execF (s : State) : Host.Outcome State Fault Refusal :=
  match s.block.op with
  | .stop => .next (s.enter .forward)
  | .forward => .next s.noop
  | .reverse => .next (s.beginReversal .forward)

/-- `R` (R132): go reverse. `manual` is not read. -/
def execR (s : State) : Host.Outcome State Fault Refusal :=
  match s.block.op with
  | .stop => .next (s.enter .reverse)
  | .forward => .next (s.beginReversal .reverse)
  | .reverse => .next s.noop

/-- `S` (R133): manual stop. The mode is tested before the direction (R134, D17). -/
def execS (s : State) : Host.Outcome State Fault Refusal :=
  if s.inp.manual then
    match s.block.op with
    | .stop => .next s.noop
    | .forward => .next s.stopMotor
    | .reverse => .next s.stopMotor
  else .next (s.emit .reject)

end Sys2Proof.Machine
end

