-- ==== Sys2Proof/Machine/Internal.lean ====
section
/-! DEFINITION. The forced forward, NOP, and the ignored and illegal words (41_direction_fsm.md R138
to R141). -/

namespace Sys2Proof.Machine

/-- `FFWD` (R138): from STOP, assign FORWARD directly; the duty registers are not written. -/
def execFfwd (s : State) : Host.Outcome State Fault Refusal :=
  match s.block.op with
  | .stop => .next ((s.setOp .forward).emit .forcedFwd)
  | .forward => .next s.quiet
  | .reverse => .next s.quiet

/-- `NOP` (R139). -/
def execNop (s : State) : Host.Outcome State Fault Refusal := .next s.quiet

/-- An ignored serial byte (R140). -/
def execByte (s : State) : Host.Outcome State Fault Refusal := .next s.quiet

/-- A reserved internal word (R141): `ERR_ILL` is set and nothing else changes. -/
def execWord (s : State) : Host.Outcome State Fault Refusal :=
  .next (s.setErr .illegalWord).quiet

end Sys2Proof.Machine
end

