-- ==== Sys2Proof/Machine/Mapper.lean ====
section
/-! DEFINITION. The DRIVE operation (40_duty_mapper.md R110). -/

namespace Sys2Proof.Machine

/-- `DRIVE` (R110): apply the present power to the present direction; no event. -/
def execDrive (s : State) : Host.Outcome State Fault Refusal :=
  .next (s.drive s.block.op).quiet

end Sys2Proof.Machine
end

