-- ==== Sys2Proof/Machine/Dispatch.lean ====
section
/-! DEFINITION. `execute` of 41_direction_fsm.md R130: one arm per operation. -/

namespace Sys2Proof.Machine

def exec (i : Instr) (s : State) : Host.Outcome State Fault Refusal :=
  match i with
  | .f => Sys2Proof.Machine.execF s
  | .r => Sys2Proof.Machine.execR s
  | .s => Sys2Proof.Machine.execS s
  | .nop => Sys2Proof.Machine.execNop s
  | .drive => Sys2Proof.Machine.execDrive s
  | .ffwd => Sys2Proof.Machine.execFfwd s
  | .byte _ => Sys2Proof.Machine.execByte s
  | .word _ => Sys2Proof.Machine.execWord s

end Sys2Proof.Machine
end

