-- ==== Sys2Proof/WellFormed.lean ====
section
/-! DEFINITION. Which terms of `Instr` stand for an operation word of their own: the two fallback
rows of the opcode table take only the bytes no earlier row takes (30_encoding.md R72, R73, R82). -/

namespace Sys2Proof

/-- The serial bytes the block recognises: 'F', 'R' and 'S' (R71). -/
def isCommandByte (b : Byte) : Bool := b == 0x46#8 || b == 0x52#8 || b == 0x53#8

/-- The internal opcodes that are assigned: NOP, DRIVE and FFWD (R73). -/
def isInternalOpcode (b : Byte) : Bool := b == 0x00#8 || b == 0x01#8 || b == 0x02#8

/-- A term is well formed when its byte belongs to its class: an ignored byte is no command byte
(R72), and a reserved opcode is no assigned one (R73). -/
def Instr.wf : Instr → Bool
  | .byte b => !isCommandByte b
  | .word b => !isInternalOpcode b
  | .f | .r | .s | .nop | .drive | .ffwd => true

end Sys2Proof
end

