-- ==== Sys2Proof/Decode.lean ====
section
/-! DEFINITION. The decoder of operation words, total on all 512 of them (30_encoding.md R74), the
opcode table as rows of mask and pattern (R82), and after them the encoder. -/

namespace Sys2Proof

/-- The kind bit `K` of an operation word (R70). -/
def kindBit (w : OpWord) : Bool := w.getLsbD 8

/-- The byte field `B` of an operation word (R70). -/
def byteField (w : OpWord) : Byte := w.setWidth 8

/-- Decode of R74: every 9-bit word gives exactly one operation. No input level is read. -/
def decode (w : OpWord) : Instr :=
  if kindBit w = false then
    if byteField w = 0x46#8 then .f
    else if byteField w = 0x52#8 then .r
    else if byteField w = 0x53#8 then .s
    else .byte (byteField w)
  else
    if byteField w = 0x00#8 then .nop
    else if byteField w = 0x01#8 then .drive
    else if byteField w = 0x02#8 then .ffwd
    else .word (byteField w)

/-- Why a number is no operation word. -/
inductive DecodeRefusal where
  /-- The number needs more than the nine wires of port `opw` (R70: "Every word is exactly 9 bits"). -/
  | widerThanNineBits
  deriving DecidableEq, Repr

/-- Decode any number, rejecting by name one that is no 9-bit word. DESIGN CHOICE, log entry 20; safe. -/
def decodeNumber (n : Nat) : Except DecodeRefusal Instr :=
  if n < 512 then .ok (decode (BitVec.ofNat 9 n)) else .error .widerThanNineBits

/-- The instruction the decoder reads from an instruction whose bits are `w`, numbered as
spec/opcode_table.json numbers them. The block has one word length, so `nbits` decides nothing. -/
def decodeTableWord (_nbits w : Nat) : Option Instr :=
  match decodeNumber w with
  | .ok i => some i
  | .error _ => none

/-- The word with kind bit `k` and byte `b` (R70): `{k, b}`. -/
def assembleWord (k : Bool) (b : Byte) : OpWord := (if k then 0x100#9 else 0x000#9) ||| b.setWidth 9

/-- The word of an operation, from the tables of R71, R72 and R73. -/
def encode : Instr → OpWord
  | .f => 0x046#9
  | .r => 0x052#9
  | .s => 0x053#9
  | .nop => 0x100#9
  | .drive => 0x101#9
  | .ffwd => 0x102#9
  | .byte b => assembleWord false b
  | .word b => assembleWord true b

/-- One row of spec/opcode_table.json: a word belongs to it when its masked bits equal `pattern`. -/
structure OpcodeRow where
  mnemonic : String
  pattern : OpWord
  mask : OpWord
  deriving DecidableEq, Repr

/-- spec/opcode_table.json, row by row, in the table's order (R82). -/
def opcodeTable : List OpcodeRow :=
  [⟨"F", 0x046#9, 0x1FF#9⟩, ⟨"R", 0x052#9, 0x1FF#9⟩, ⟨"S", 0x053#9, 0x1FF#9⟩,
   ⟨"NOP", 0x100#9, 0x1FF#9⟩, ⟨"DRIVE", 0x101#9, 0x1FF#9⟩, ⟨"FFWD", 0x102#9, 0x1FF#9⟩,
   ⟨"BYTE", 0x000#9, 0x100#9⟩, ⟨"WORD", 0x100#9, 0x100#9⟩]

/-- The first row of the table that matches a word (R82). -/
def firstRow (w : OpWord) : Option OpcodeRow :=
  opcodeTable.find? fun row => w &&& row.mask == row.pattern

end Sys2Proof
end

