-- ==== Sys2Proof/Machine/HostEnv.lean ====
section
/-! DEFINITION. The host software of 49_host_environment.md, as the agent that drives the block's
ports. It is the environment, not the block (00_scope.md R5, R6): it reads the block only through
`op_state` and `busy`, and acts on it only through the input ports. DESIGN CHOICE, log entries 10 to
15 and 21 to 23. -/

namespace Sys2Proof.Machine

/-- Make a notification (R171, R175, R177). -/
def HostState.notify (n : HostNote) (h : HostState) : HostState := { h with sent := h.sent ++ [n] }

/-- The host boots: R170's values (R178). A notification already made is not taken back (log entry
15). -/
def HostState.reboot (p : HostParams) (h : HostState) : HostState :=
  { HostState.boot p with sent := h.sent }

/-- "Clamp Power to [0,9] unconditionally" (R171). -/
def clampPower (x : Int) : Fin 10 :=
  if x < 0 then 0 else if h : x.toNat < 10 then ⟨x.toNat, h⟩ else 9

/-- `LIGHT_INTERVAL`, 0x180 (R171). -/
def lightInterval : Nat := 0x180

/-- The digit a serial byte spells, '0'..'9' = 0x30..0x39 (R72, G1). -/
def digitOf (b : Byte) : Option (Fin 10) :=
  if h : 0x30 ≤ b.toNat ∧ b.toNat < 0x3A then some ⟨b.toNat - 0x30, by omega⟩ else none

/-- The word the host offers for a serial byte: only 'F', 'R' and 'S' are offered (R172, R175), and
other bytes are dropped (DESIGN CHOICE, log entry 14). -/
def commandWord (b : Byte) : Option OpWord :=
  if isCommandByte b then some (assembleWord false b) else none

/-- The turn of the ramp at its ends (R171). -/
def rampTurn (power : Fin 10) (ramp : Ramp) : Ramp :=
  if power = 9 then .decreasing else if power = 0 then .increasing else ramp

/-- One step of the ramp (R171). -/
def rampStep (power : Fin 10) (ramp : Ramp) : Fin 10 :=
  match ramp with
  | .increasing => clampPower (power.val + 1)
  | .decreasing => clampPower (power.val - 1)

/-- `updatePower()` of R171 up to the DRIVE it ends with. `op` is Operation, read on `op_state`;
`digit` is the digit being handled, if any. In STOP, Power is unchanged. -/
def HostState.updatePower (op : Direction) (digit : Option (Fin 10)) (h : HostState) : HostState :=
  if op = .stop then h.notify .suppressed
  else
    match h.mode with
    | .manual => { h with power := digit.getD h.power }
    | .lightControl => { h with power := clampPower ((h.sensor / lightInterval : Nat) : Int) }
    | .timeControl =>
      let ramp := rampTurn h.power h.ramp
      { h with ramp := ramp, power := rampStep h.power ramp }

/-- The levels the host drives continuously: `power_in = Power`, `manual = (Mode == MANUAL)` (R170). -/
def HostState.levels (h : HostState) (p : Ports) : Ports :=
  { p with powerIn := BitVec.ofNat 4 h.power.val, manual := decide (h.mode = .manual) }

/-- Steps 1 and 2 of the dispatch loop (R172, R175): the host and the word it offers, if any. -/
def HostState.pollSerial (op : Direction) (h : HostState) : HostState × Option OpWord :=
  match h.serial with
  | none => (h, none)
  | some b =>
    let h0 := { h with serial := none }
    match digitOf b, h.mode with
    | some d, .manual => (h0.updatePower op (some d), some (encode .drive))
    | some _, .lightControl => (h0.notify .digitRejected, none)
    | some _, .timeControl => (h0.notify .digitRejected, none)
    | none, .manual => (h0, commandWord b)
    | none, .lightControl => (h0, commandWord b)
    | none, .timeControl => (h0, commandWord b)

/-- The Mode State Machine (R177): the mode after a trigger code and its notification. A trigger for
the other pair is a no-op with a notification (D23). Another code does nothing (DESIGN CHOICE, log
entry 14). -/
def toggleMode (p : HostParams) (code : Nat) (m : Mode) : Mode × Option HostNote :=
  if code = p.lightTrigger then
    match m with
    | .manual => (.lightControl, some (.modeIs .lightControl))
    | .lightControl => (.manual, some (.modeIs .manual))
    | .timeControl => (.timeControl, some .triggerIgnored)
  else if code = p.timeTrigger then
    match m with
    | .manual => (.timeControl, some (.modeIs .timeControl))
    | .timeControl => (.manual, some (.modeIs .manual))
    | .lightControl => (.lightControl, some .triggerIgnored)
  else (m, none)

/-- Step 3 of the dispatch loop (R172, R177). -/
def HostState.pollButton (p : HostParams) (h : HostState) : HostState :=
  match h.button with
  | none => h
  | some code =>
    let (m, note) := toggleMode p code h.mode
    { h with mode := m, button := none, sent := h.sent ++ note.toList }

/-- Step 4's `updatePower()` in an auto mode (R174), with the word it offers. `none`: the sensor is
not ready and the host waits, without a timeout (R179). A sensor that answers does so in no cycle; no
rule says how long it takes, and a finite wait is an `idle` line before this action (DESIGN CHOICE, log
entry 23; unsafe for claims about how long a host iteration takes). -/
def HostState.regulate (op : Direction) (sample : Option Nat) (h : HostState) :
    Option (HostState × Option OpWord) :=
  match h.mode with
  | .manual => some (h, none)
  | .timeControl => some (h.updatePower op none, some (encode .drive))
  | .lightControl =>
    match sample with
    | none => none
    | some v => some (({ h with sensor := v }).updatePower op none, some (encode .drive))

/-- One host action: the host after it and the word it offers, or `none` where the host waits. -/
def HostState.act (p : HostParams) (op : Direction) (a : HostAct) (h : HostState) :
    Option (HostState × Option OpWord) :=
  match a with
  | .serial => some (h.pollSerial op)
  | .mode => some (h.pollButton p, none)
  | .force =>
    match h.mode with
    | .manual => some (h, none)
    | .lightControl => some (h, some (encode .ffwd))
    | .timeControl => some (h, some (encode .ffwd))
  | .regulate sample => h.regulate op sample
  | .wait => some (h, none)

/-- The ticks a host action then waits: `PERIOD_TICKS` after the auto modes' periodic action
(R174; log entry 11). -/
def HostState.waitTicks (p : HostParams) (a : HostAct) (h : HostState) : Nat :=
  match a, h.mode with
  | .wait, .lightControl => p.periodTicks
  | .wait, .timeControl => p.periodTicks
  | .wait, .manual => 0
  | .serial, _ => 0
  | .mode, _ => 0
  | .force, _ => 0
  | .regulate _, _ => 0

/-- One iteration of the dispatch loop as script lines, in the order of R172. -/
def hostIteration (sample : Option Nat) : List Line :=
  [.host .serial, .host .mode, .host .force, .host (.regulate sample), .host .wait]

end Sys2Proof.Machine
end

