-- ==== Sys2Proof/Machine/Stimulus.lean ====
section
/-! DEFINITION. How the environment's script reaches the input ports, cycle by cycle
(30_encoding.md R79, R80), and the assembler syntax of stimulus programs (R78, R81). -/

namespace Sys2Proof.Machine

/-- The ports of a cycle no line sets: `rst`, `opw_valid` and `tick` are 0 and the levels stay (R80);
`opw` is then 0 (DESIGN CHOICE, log entry 18; safe). -/
def Ports.rest (p : Ports) : Ports :=
  { p with rst := false, opwValid := false, opw := 0#9, tick := false }

/-- The ports of a cycle of an operation line: the word with `opw_valid = 1` and `tick = 0` (R80). -/
def Ports.offer (w : OpWord) (p : Ports) : Ports := { p.rest with opwValid := true, opw := w }

/-- The ports of a cycle of `TICKS` (R79). -/
def Ports.ticking (p : Ports) : Ports := { p.rest with tick := true }

/-- The ports of a cycle of `RESET` (R79). The levels stay, as R80 says; that the host is not booted
with them is the model's choice (DESIGN CHOICE, log entry 21). -/
def Ports.resetting (p : Ports) : Ports := { p.rest with rst := true }

/-- Whether the time base gives its strobe in the next cycle (R234, step 4). -/
def strobes (timeBase : Option Nat) : Bool := decide (timeBase = some 0)

/-- The time base a cycle later: one one-cycle strobe per `TICK_PERIOD` (R234, R245). One that was not
started stays so. -/
def nextTimeBase (p : HostParams) : Option Nat → Option Nat
  | none => none
  | some 0 => some (p.tickCycles - 1)
  | some (k + 1) => some k

/-- The time base's strobe on the ports, beside a line's own tick (log entry 22). -/
def Ports.strobed (timeBase : Option Nat) (p : Ports) : Ports :=
  { p with tick := p.tick || strobes timeBase }

/-- The next cycle is one with the inputs `q` and the time base's strobe; `rest` is the script after
it, and `hold` whether it belongs to an operation line. -/
def nextCycle (c : Config) (h : HostState) (timeBase : Option Nat) (q : Ports) (hold : Bool)
    (rest : List Line) : Ports × Env :=
  (q.strobed timeBase, ⟨rest, hold, h, nextTimeBase c.host timeBase⟩)

/-- The ticks a host still waits for after the next cycle, of `n` before it (R174). -/
def ticksLeft (timeBase : Option Nat) (n : Nat) : Nat := if strobes timeBase then n - 1 else n

/-- The environment's choice for the next cycle: run the script up to the first line that takes a
cycle. `b` is the block as its outputs show it in that cycle, `p` carries the input levels. A host
action waits while `busy = 1` (R173). The time base, once started, strobes in every cycle but a raw
one, which gives all its inputs (R234; log entry 22). When the script is over the ports rest (R80; log
entry 4). A trigger code that arrives while one is pending overwrites it, as a byte does (DESIGN
CHOICE, log entry 12). A `RESET` line resets the block and keeps the host's state and levels; only a
`boot` line sets them back (DESIGN CHOICE, log entry 21). -/
def feed (c : Config) (b : Block) (h : HostState) (timeBase : Option Nat) (p : Ports) :
    List Line → Ports × Env
  | [] => nextCycle c h timeBase p.rest false []
  | .cycle q :: rest => (q, ⟨rest, false, h, nextTimeBase c.host timeBase⟩)
  | .op w :: rest => nextCycle c h timeBase (p.offer w) true rest
  | .power n :: rest => feed c b h timeBase { p with powerIn := n } rest
  | .manual m :: rest => feed c b h timeBase { p with manual := m } rest
  | .ticks 0 :: rest => feed c b h timeBase p rest
  | .ticks (n + 1) :: rest => nextCycle c h timeBase p.ticking false (.ticks n :: rest)
  | .idle 0 :: rest => feed c b h timeBase p rest
  | .idle (n + 1) :: rest => nextCycle c h timeBase p.rest false (.idle n :: rest)
  | .reset :: rest => nextCycle c h timeBase p.resetting false rest
  | .boot :: rest => feed c b (h.reboot c.host) timeBase ((h.reboot c.host).levels p) rest
  | .rxByte x :: rest => feed c b { h with serial := some x } timeBase p rest
  | .button code :: rest => feed c b { h with button := some code } timeBase p rest
  | .startTicks wait :: rest => feed c b h (some wait) p rest
  | .awaitTicks 0 :: rest => feed c b h timeBase p rest
  | .awaitTicks (n + 1) :: rest =>
    nextCycle c h timeBase p.rest false (.awaitTicks (ticksLeft timeBase (n + 1)) :: rest)
  | .host a :: rest =>
    if b.ph = .settle then nextCycle c h timeBase p.rest false (.host a :: rest)
    else
      match h.act c.host b.op a with
      | none => nextCycle c h timeBase p.rest false (.host a :: rest)
      | some (h', some w) => nextCycle c h' timeBase ((h'.levels p).offer w) true rest
      | some (h', none) =>
        match h.waitTicks c.host a with
        | 0 => feed c b h' timeBase (h'.levels p) rest
        | n + 1 =>
          nextCycle c h' timeBase (h'.levels p).rest false
            (.awaitTicks (ticksLeft timeBase (n + 1)) :: rest)

/-- A word that was not accepted stays on the port (R80), while the time base goes on. -/
def State.holdWord (s : State) : State :=
  { s with
    inp := { s.inp with tick := strobes s.env.timeBase }
    env := { s.env with timeBase := nextTimeBase s.cfg.host s.env.timeBase } }

/-- Move the environment to the next cycle: an operation line is held until its word is accepted
(R80), and otherwise the script goes on. `accepted` is about the cycle that has just ended. -/
def State.advance (accepted : Bool) (s : State) : State :=
  if s.env.hold && !accepted then s.holdWord
  else
    let next := feed s.cfg s.block s.env.host s.env.timeBase s.inp s.env.script
    { s with inp := next.1, env := next.2 }

/-- Place a stimulus program so that its first line begins with the next cycle: "Until a program's
first POWER and first MANUAL, power_in = 0 and manual = 0" (R80). The program gives every tick itself
(R79, R80), so no time base runs beside it. -/
def State.load (program : List Line) (s : State) : State :=
  let next := feed s.cfg s.block s.env.host none { s.inp with powerIn := 0#4, manual := false } program
  { s with inp := next.1, env := next.2 }

/-- Place host software activity, with the levels the host drives (R170) and the time base as it
runs. -/
def State.loadHost (activity : List Line) (s : State) : State :=
  let next := feed s.cfg s.block s.env.host s.env.timeBase (s.env.host.levels s.inp) activity
  { s with inp := next.1, env := next.2 }

/-- What the host does before it offers its first word, in R234's order (R178): hold `rst`, drive the
levels of its boot values, start the time base, release `rst`. The first strobe comes after `wait`
cycles. -/
def hostBoot (wait : Nat) : List Line := [.reset, .boot, .startTicks wait, .reset]

/-- The lines of the assembler syntax (R78, R79) and its pseudo-instructions (R81). -/
inductive AsmLine where
  | f | r | s | nop | drive | ffwd
  | byte (n : Byte)
  | word (n : OpWord)
  | power (n : Power)
  | manual (b : Bool)
  | ticks (n : Nat)
  | idle (n : Nat)
  | reset
  | setpwr (d : Power)
  | settle
  | fwd | rev | stop
  deriving DecidableEq, Repr

/-- The expansion of one line (R78, R79, R81). -/
def AsmLine.expand (c : Config) : AsmLine → List Line
  | .f | .fwd => [.op 0x046#9]
  | .r | .rev => [.op 0x052#9]
  | .s | .stop => [.op 0x053#9]
  | .nop => [.op 0x100#9]
  | .drive => [.op 0x101#9]
  | .ffwd => [.op 0x102#9]
  | .byte n => [.op (assembleWord false n)]
  | .word n => [.op n]
  | .power n => [.power n]
  | .manual b => [.manual b]
  | .ticks n => [.ticks n]
  | .idle n => [.idle n]
  | .reset => [.reset]
  | .setpwr d => [.power d, .op 0x101#9]
  | .settle => [.ticks c.settleTicks.toNat]

/-- A stimulus program as script lines. -/
def assemble (c : Config) (program : List AsmLine) : List Line :=
  program.flatMap (AsmLine.expand c)

end Sys2Proof.Machine
end

