-- ==== Sys2Proof/Machine/Cycle.lean ====
section
/-! DEFINITION. One clock cycle of the block (41_direction_fsm.md R130) and the step of the machine:
the cycle, then the environment's next inputs (00_scope.md R6). -/

namespace Sys2Proof.Machine

/-- `cycle(s, in)` of R130, in its order of precedence: reset, then the settle phase, then an
accepted word, then an idle cycle. -/
def State.cycle (s : State) : Host.Outcome State Fault Refusal :=
  if s.inp.rst then .next s.resetBlock
  else
    match s.block.ph with
    | .settle => .next s.settleStep
    | .idle => if s.inp.opwValid then exec (decode s.inp.opw) s else .next s.quiet

/-- The cycle, and after it the environment's next inputs. -/
def State.clock (s : State) : Host.Outcome State Fault Refusal :=
  match s.cycle with
  | .next t => .next (t.advance s.accepted)
  | .fault r => .fault r
  | .refused r => .refused r

/-- Put a word on the operation port so that it is accepted in this very cycle (R29): no reset, the
block able to take a word (`PH = IDLE`, and with it `TGT = 0b00`, R24), the word on `opw`. A number
that is no 9-bit word cannot be put on the port, and nothing is offered. DESIGN CHOICE, log entry 5;
unsafe on a state in SETTLE only. -/
def State.offerNow (n : Nat) (s : State) : State :=
  { s with
    block := { s.block with ph := .idle, tgt := none }
    inp := { s.inp with rst := false, opwValid := decide (n < 512), opw := BitVec.ofNat 9 n } }

end Sys2Proof.Machine
end

