-- ==== Sys2Proof/Machine/Step.lean ====
section
/-! DEFINITION. The step of the machine: one clock cycle (00_scope.md R6). -/

namespace Sys2Proof.Machine

/-- One step: one cycle of the block's clock. -/
def step (s : State) : Host.Outcome State Fault Refusal := s.clock

/-- The state with an instruction word where the next step takes its instruction from: the block
fetches nothing, so this is the word on port `opw`, offered and accepted in this cycle. -/
def State.withFetchWord (s : State) (_nbits w : Nat) : State := s.offerNow w

end Sys2Proof.Machine
end

