-- ==== Sys2Proof/Safety.lean ====
section
/-! DEFINITION. What counts as a good state and a safe run of the drive block, in the terms the
statements use: the invariants of 10_state.md R34, the event codes in use (60_exceptions.md R204),
the fault record (R201, R202), an environment that keeps its duties (70_reset_and_hazards.md R243),
and input sequences (49_host_environment.md: "every input sequence"). -/

namespace Sys2Proof.Machine

/-- `k` cycles of the machine. -/
def run (k : Nat) (s : State) : Host.Outcome State Fault Refusal := Host.Core.run Sys2Proof.core k s

/-- The block and the fault record an outcome leaves, if it is a next state. -/
def blockAfter (o : Host.Outcome State Fault Refusal) : Option (Block × Option Fault) :=
  match o with
  | .next t => some (t.block, t.fault)
  | .fault _ => none
  | .refused _ => none

/-- What no operation of the block touches: the parameters, the input ports and the environment. -/
def SameSurroundings (s t : State) : Prop := t.cfg = s.cfg ∧ t.inp = s.inp ∧ t.env = s.env

/-- A percent that I6 of R34 admits: 0, 100, or a value of `DUTY_TABLE`. -/
def dutyAllowed (c : Config) (x : Percent) : Prop := x = 0#7 ∨ x = 100#7 ∨ x ∈ c.dutyTable.values

/-- The invariants I2 to I7 of R34. I1 holds by the type of `op`. -/
structure BlockInv (c : Config) (b : Block) : Prop where
  /-- I2: settling means stopped, with a target and both channels 0. -/
  settling : b.ph = .settle → b.op = .stop ∧ b.tgt ≠ none ∧ b.dutyF = 0#7 ∧ b.dutyR = 0#7
  /-- I3: idle means no target. -/
  idle : b.ph = .idle → b.tgt = none
  /-- I4: stopped means both channels 0. -/
  stopped : b.op = .stop → b.dutyF = 0#7 ∧ b.dutyR = 0#7
  /-- I5: the channel that is not active is 0. -/
  oneChannel : (b.op = .forward → b.dutyR = 0#7) ∧ (b.op = .reverse → b.dutyF = 0#7)
  /-- I6: the duty registers hold percents of the mapper. -/
  duties : dutyAllowed c b.dutyF ∧ dutyAllowed c b.dutyR
  /-- I7: the settle counter never exceeds `SETTLE_TICKS`. -/
  counter : b.cnt ≤ c.settleTicks

/-- The event register holds no event, or one of the seven codes of R204 (R28, U7). -/
def EventLegal (b : Block) : Prop :=
  (b.evtV = false ∧ b.evtCode = 0#4) ∨ (b.evtV = true ∧ 1#4 ≤ b.evtCode ∧ b.evtCode ≤ 7#4)

/-- A set error flag stands for a recorded fault (R201, R202, D19). -/
def ErrorsRecorded (s : State) : Prop :=
  (s.block.errPwr = true ∨ s.block.errIll = true) → s.fault ≠ none

/-- A good state of a run: no fault has been recorded in it ("the run is never a good final state"
once one is, 93_implementation_defined.md, section 1). -/
def FaultFree (s : State) : Prop := s.fault = none

/-- Whether the drive of this cycle uses `power_in` (R201): a settle completion, an accepted F or R
in STOP, or an accepted DRIVE outside STOP. -/
def powerUsed (s : State) : Bool :=
  !s.inp.rst &&
    match s.block.ph with
    | .settle => decide (s.block.cnt = 0#16) && s.block.tgt.isSome
    | .idle =>
      s.inp.opwValid &&
        match decode s.inp.opw with
        | .f => decide (s.block.op = .stop)
        | .r => decide (s.block.op = .stop)
        | .drive => decide (s.block.op ≠ .stop)
        | .s | .nop | .ffwd | .byte _ | .word _ => false

/-- A reserved internal word, 0x103..0x1FF (R73). -/
def illegalOpw (w : OpWord) : Bool := decide (0x103#9 ≤ w)

/-- Inputs that break no duty: a legal power level (R243), and no illegal word offered (R202). -/
def Ports.lawful (p : Ports) : Bool := !powerIllegal p.powerIn && !(p.opwValid && illegalOpw p.opw)

/-- A script line that breaks no duty. The host software's own lines never do. -/
def Line.lawful : Line → Bool
  | .cycle p => p.lawful
  | .op w => !illegalOpw w
  | .power n => !powerIllegal n
  | .manual _ | .ticks _ | .idle _ | .reset | .boot | .rxByte _ | .button _
  | .startTicks _ | .awaitTicks _ | .host _ => true

/-- A fault-free machine whose environment breaks no duty, now or later. -/
structure Disciplined (s : State) : Prop where
  faultFree : FaultFree s
  noPowerError : s.block.errPwr = false
  noIllegalError : s.block.errIll = false
  ports : s.inp.lawful = true
  script : ∀ l ∈ s.env.script, l.lawful = true

/-- The state whose inputs are `ps`, cycle by cycle from the present one. When they are over, the
ports rest. The sequence gives every tick, and no time base runs. -/
def State.withInputs (ps : List Ports) (s : State) : State :=
  match ps with
  | [] => { s with inp := s.inp.rest, env := ⟨[], false, s.env.host, none⟩ }
  | p :: later => { s with inp := p, env := ⟨later.map .cycle, false, s.env.host, none⟩ }

/-- The ticks in a sequence of cycles. -/
def tickCount (ps : List Ports) : Nat := ps.countP (·.tick)

/-- The nominal settle delay in microseconds, `SETTLE_TICKS` times `TICK_PERIOD` (R151, R247). -/
def settleMicroseconds (c : Config) : Nat := c.settleTicks.toNat * c.tickPeriodUs

end Sys2Proof.Machine
end

