-- ==== Sys2Proof/Certificates/Slice0/Obligations.lean ====
section
/-! DEFINITION. The statements about the drive block, for the provers: encodings, the result and
frame of every operation, whole-machine rules, invariants, the settle delay, and the host software.
Rules R<n> are those of spec/. -/

open Sys2Proof Sys2Proof.Machine

/-! ### Encoding -/

/-- Decoding the word of a well-formed operation gives the operation back, with every value of its
byte: no bit of a word is dropped (30_encoding.md, sections 1 and 5). -/
def Obligations.DecodeOfEncodeIsIdentity : Prop :=
  ∀ i : Instr, i.wf = true → decode (encode i) = i

/-- Every one of the 512 words decodes to a well-formed operation whose word it is
(30_encoding.md R74). -/
def Obligations.EncodeOfDecodeIsIdentity : Prop :=
  ∀ w : OpWord, (decode w).wf = true ∧ encode (decode w) = w

/-- The decoder answers the class of the first matching row of the eight-row opcode table, and every
word matches a row (30_encoding.md R82, marked derived in the spec). -/
def Obligations.DecodeFollowsOpcodeTable : Prop :=
  opcodeTable.length = 8 ∧
    ∀ w : OpWord, (firstRow w).map OpcodeRow.mnemonic = some (decode w).mnemonic

/-- The words of the spec's encoding tables, bit by bit (30_encoding.md R71 to R73): 'F', 'R', 'S',
NOP, DRIVE, FFWD, the digit '5', the lower-case 's', the byte 0x01 (which is not DRIVE), and the
first and last reserved words. -/
def Obligations.WrittenWordsDecode : Prop :=
  decode 0b001000110#9 = .f ∧ decode 0b001010010#9 = .r ∧ decode 0b001010011#9 = .s ∧
  decode 0b100000000#9 = .nop ∧ decode 0b100000001#9 = .drive ∧ decode 0b100000010#9 = .ffwd ∧
  decode 0b000110101#9 = .byte 0x35#8 ∧ decode 0b001110011#9 = .byte 0x73#8 ∧
  decode 0b000000001#9 = .byte 0x01#8 ∧
  decode 0b100000011#9 = .word 0x03#8 ∧ decode 0b111111111#9 = .word 0xFF#8

/-! ### Reset -/

/-- A cycle with `rst = 1`, in any phase and with any other inputs: every state element takes its
reset value, no word is accepted, and from the next cycle on the outputs are those of the reset
state (R230); a reversal in progress is abandoned (R231). -/
def Obligations.ResetCycleResult : Prop :=
  ∀ s : State, s.inp.rst = true →
    s.opwReady = false ∧ s.accepted = false ∧
    ∃ t, step s = .next t ∧ t.cfg = s.cfg ∧
      t.block.op = .stop ∧ t.block.ph = .idle ∧ t.block.tgt = none ∧ t.block.cnt = 0#16 ∧
      t.block.dutyF = 0#7 ∧ t.block.dutyR = 0#7 ∧ t.block.errPwr = false ∧
      t.block.errIll = false ∧ t.block.evtV = false ∧ t.block.evtCode = 0#4 ∧
      t.outputs.status = 0x0000#16 ∧ t.outputs.dutyF = 0#7 ∧ t.outputs.dutyR = 0#7 ∧
      t.outputs.opState = 0b00#2 ∧ t.outputs.busy = 0#1 ∧ t.outputs.evtValid = false

/-- The state after reset meets every invariant: the block's (R34), the legal event register, the
fault record, the parameters' `P_duty` (R8), and an environment that breaks no duty. The fault
record, empty at reset, is the model's own field and its choice (log entry 2), and so are the levels
and the empty script at reset (log entries 3 and 4). -/
def Obligations.ResetStateMeetsInvariants : Prop :=
  BlockInv State.reset.cfg State.reset.block ∧ EventLegal State.reset.block ∧
    ErrorsRecorded State.reset ∧ PDuty State.reset.cfg.dutyTable.values ∧ Disciplined State.reset ∧
    State.reset.block = Block.reset

/-! ### The duty mapper -/

/-- Every table a configuration can hold satisfies `P_duty`, and a table of values is admitted exactly
when it satisfies it: any other is refused (R7, R8; 95_test_vectors.md, section 2). -/
def Obligations.OnlyAdmittedTablesExist : Prop :=
  (∀ c : Config, PDuty c.dutyTable.values) ∧
  ∀ values : Vector Percent 10,
    (PDuty values → ∃ table, DutyTable.ofValues? values = some table ∧ table.values = values) ∧
    (¬ PDuty values → DutyTable.ofValues? values = none)

/-- The default table is the formula of R101, `power*10 + (power != 0)*10 + (power == 1)*5` clamped
to 100, on all 16 values of `power_in`, and it satisfies `P_duty`; so does the hardware form of the
formula in 8-bit arithmetic (R102). -/
def Obligations.DefaultMapIsFormula : Prop :=
  PDuty defaultConfig.dutyTable.values ∧
    ∀ p : Power,
      (mapPower defaultConfig p).toNat =
        min (p.toNat * 10 + (if p.toNat ≠ 0 then 10 else 0) + (if p.toNat = 1 then 5 else 0)) 100 ∧
      dutySpec41 p = mapPower defaultConfig p

/-- For EVERY table, each of which satisfies `P_duty` (R8), the mapper is monotone on all 16 power
values, stays in 0..100, gives 0 at 0, and 100 at 9 and at every value above 9 (R103). -/
def Obligations.MapIsMonotoneInRange : Prop :=
  ∀ c : Config,
    (∀ p q : Power, p ≤ q → mapPower c p ≤ mapPower c q) ∧
    (∀ p : Power, mapPower c p ≤ 100#7) ∧ mapPower c 0#4 = 0#7 ∧
    (∀ p : Power, 9#4 ≤ p → mapPower c p = 100#7)

/-! ### The result and the frame of every operation -/

/-- `F` (R131, with R136 and R137 for its cells), for every state. Each clause gives the whole block
after the command, so everything it does not name is unchanged. The last clause is R131's corner
case: the reversal's direction is entered later, with the power of that cycle (R150). -/
def Obligations.ForwardCommandResult : Prop :=
  decode 0x046#9 = .f ∧
  (∀ s : State, ∃ t, exec .f s = .next t ∧ SameSurroundings s t ∧
    (s.block.op = .stop →
      t.block =
        { s.block with
          op := .forward, dutyF := mapPower s.cfg s.inp.powerIn, dutyR := 0#7
          errPwr := s.block.errPwr || decide (9 < s.inp.powerIn.toNat)
          evtV := true, evtCode := 0x1#4 }) ∧
    (s.block.op = .forward →
      t.block =
        { s.block with
          evtV := s.cfg.notifyNoop, evtCode := if s.cfg.notifyNoop then 0x6#4 else 0x0#4 }) ∧
    (s.block.op = .reverse →
      t.block =
        { s.block with
          op := .stop, dutyF := 0#7, dutyR := 0#7, ph := .settle, tgt := some .forward
          cnt := s.cfg.settleTicks, evtV := true, evtCode := 0x4#4 })) ∧
  (∀ s : State, s.inp.rst = false → s.block.ph = .settle → s.block.tgt = some .forward →
    s.block.cnt = 0#16 →
    ∃ t, step s = .next t ∧ t.block.op = .forward ∧ t.block.dutyR = 0#7 ∧
      t.block.dutyF = mapPower s.cfg s.inp.powerIn)

/-- `R` (R132): as `F` with FORWARD and REVERSE exchanged. -/
def Obligations.ReverseCommandResult : Prop :=
  decode 0x052#9 = .r ∧
  (∀ s : State, ∃ t, exec .r s = .next t ∧ SameSurroundings s t ∧
    (s.block.op = .stop →
      t.block =
        { s.block with
          op := .reverse, dutyF := 0#7, dutyR := mapPower s.cfg s.inp.powerIn
          errPwr := s.block.errPwr || decide (9 < s.inp.powerIn.toNat)
          evtV := true, evtCode := 0x2#4 }) ∧
    (s.block.op = .reverse →
      t.block =
        { s.block with
          evtV := s.cfg.notifyNoop, evtCode := if s.cfg.notifyNoop then 0x6#4 else 0x0#4 }) ∧
    (s.block.op = .forward →
      t.block =
        { s.block with
          op := .stop, dutyF := 0#7, dutyR := 0#7, ph := .settle, tgt := some .reverse
          cnt := s.cfg.settleTicks, evtV := true, evtCode := 0x4#4 })) ∧
  (∀ s : State, s.inp.rst = false → s.block.ph = .settle → s.block.tgt = some .reverse →
    s.block.cnt = 0#16 →
    ∃ t, step s = .next t ∧ t.block.op = .reverse ∧ t.block.dutyF = 0#7 ∧
      t.block.dutyR = mapPower s.cfg s.inp.powerIn)

/-- `S` (R133, R135): outside MANUAL it is rejected whatever the direction; in MANUAL it stops the
motor at once, or is a no-op in STOP. It never enters SETTLE, and during a reversal it is not
accepted. -/
def Obligations.StopCommandResult : Prop :=
  decode 0x053#9 = .s ∧
  (∀ s : State, ∃ t, exec .s s = .next t ∧ SameSurroundings s t ∧
    (s.inp.manual = false → t.block = { s.block with evtV := true, evtCode := 0x7#4 }) ∧
    (s.inp.manual = true → s.block.op = .stop →
      t.block =
        { s.block with
          evtV := s.cfg.notifyNoop, evtCode := if s.cfg.notifyNoop then 0x6#4 else 0x0#4 }) ∧
    (s.inp.manual = true → s.block.op ≠ .stop →
      t.block =
        { s.block with
          op := .stop, dutyF := 0#7, dutyR := 0#7, evtV := true, evtCode := 0x3#4 })) ∧
  (∀ s : State, s.block.ph = .settle → s.accepted = false)

/-- `FFWD` (R138): from STOP it assigns FORWARD and does not write the duty registers; otherwise it
does nothing. -/
def Obligations.ForcedForwardResult : Prop :=
  decode 0x102#9 = .ffwd ∧
  ∀ s : State, ∃ t, exec .ffwd s = .next t ∧ SameSurroundings s t ∧
    (s.block.op = .stop →
      t.block = { s.block with op := .forward, evtV := true, evtCode := 0x5#4 }) ∧
    (s.block.op ≠ .stop → t.block = { s.block with evtV := false, evtCode := 0x0#4 })

/-- `DRIVE` (R104, R110): the present power reaches the active channel, the other channel is written
0, and an out-of-range power is flagged only where it is used. -/
def Obligations.DriveResult : Prop :=
  decode 0x101#9 = .drive ∧
  ∀ s : State, ∃ t, exec .drive s = .next t ∧ SameSurroundings s t ∧
    t.block =
      { s.block with
        dutyF := if s.block.op = .forward then mapPower s.cfg s.inp.powerIn else 0#7
        dutyR := if s.block.op = .reverse then mapPower s.cfg s.inp.powerIn else 0#7
        errPwr := s.block.errPwr ||
          (decide (s.block.op ≠ .stop) && decide (9 < s.inp.powerIn.toNat))
        evtV := false, evtCode := 0x0#4 }

/-- `NOP` (R139): no state element changes and no event is emitted. -/
def Obligations.NopResult : Prop :=
  decode 0x100#9 = .nop ∧
  ∀ s : State,
    exec .nop s = .next { s with block := { s.block with evtV := false, evtCode := 0x0#4 } }

/-- An ignored serial byte (R140): any byte but 'F', 'R' and 'S' changes nothing and emits
nothing. -/
def Obligations.IgnoredByteResult : Prop :=
  ∀ b : Byte, b ≠ 0x46#8 → b ≠ 0x52#8 → b ≠ 0x53#8 →
    decode (assembleWord false b) = .byte b ∧
    ∀ s : State,
      exec (.byte b) s = .next { s with block := { s.block with evtV := false, evtCode := 0x0#4 } }

/-- An illegal word (R141, R202): for each of 0x103..0x1FF, `ERR_ILL` is set, nothing else changes and
no event is emitted. The block goes on; that the first one of a run is recorded as the run's fault is
the model's way to "treat it as a fault" (log entry 2). -/
def Obligations.IllegalWordResult : Prop :=
  ∀ b : Byte, 0x03#8 ≤ b →
    decode (assembleWord true b) = .word b ∧
    ∀ s : State,
      exec (.word b) s =
        .next
          { s with
            block := { s.block with errIll := true, evtV := false, evtCode := 0x0#4 }
            fault := if s.fault = none then some .illegalWord else s.fault }

/-! ### The cycle -/

/-- `settle_step` (R150), in every cycle with `PH = SETTLE` and no reset: the completion, a counted
tick, or a wait. `TGT` names a direction in every reachable settle phase (R34, I2). -/
def Obligations.SettleStepResult : Prop :=
  ∀ s : State, s.inp.rst = false → s.block.ph = .settle →
    s.opwReady = false ∧ s.accepted = false ∧
    ∃ t, step s = .next t ∧ t.cfg = s.cfg ∧
      (s.block.cnt = 0#16 → ∀ d, s.block.tgt = some d →
        t.block =
          { s.block with
            op := d.toDirection
            dutyF := if d = .forward then mapPower s.cfg s.inp.powerIn else 0#7
            dutyR := if d = .reverse then mapPower s.cfg s.inp.powerIn else 0#7
            errPwr := s.block.errPwr || decide (9 < s.inp.powerIn.toNat)
            ph := .idle, tgt := none
            evtV := true, evtCode := if d = .forward then 0x1#4 else 0x2#4 }) ∧
      (s.block.cnt ≠ 0#16 → s.inp.tick = true →
        t.block =
          { s.block with
            cnt := BitVec.ofNat 16 (s.block.cnt.toNat - 1), evtV := false, evtCode := 0x0#4 }) ∧
      (s.block.cnt ≠ 0#16 → s.inp.tick = false →
        t.block = { s.block with evtV := false, evtCode := 0x0#4 })

/-- An idle cycle (the last case of R130): nothing is offered, so nothing but the event register
changes. -/
def Obligations.IdleCycleResult : Prop :=
  ∀ s : State, s.inp.rst = false → s.block.ph = .idle → s.inp.opwValid = false →
    ∃ t, step s = .next t ∧ t.cfg = s.cfg ∧
      t.block = { s.block with evtV := false, evtCode := 0x0#4 }

/-- A step in which a word is accepted is `exec` of the operation the word decodes to, followed by
the environment's move to the next cycle's inputs (R29, R130). -/
def Obligations.StepRunsAcceptedWord : Prop :=
  ∀ s : State, s.accepted = true →
    ∃ t, exec (decode s.inp.opw) s = .next t ∧ step s = .next (t.advance true)

/-- A word placed by `withFetchWord` is the word the very next step runs (log entry 5). -/
def Obligations.PlacedWordRunsNext : Prop :=
  ∀ (s : State) (nbits w : Nat) (i : Instr), decodeTableWord nbits w = some i →
    ∃ t, exec i (s.withFetchWord nbits w) = .next t ∧
      step (s.withFetchWord nbits w) = .next (t.advance true)

/-- No step ever stops: the block has no trap, no interrupt and no refused word (R200, R205,
R206). -/
def Obligations.EveryStepAnswersNext : Prop := ∀ s : State, ∃ t, step s = .next t

/-- No operation, cycle or environment move writes a build parameter (R7, R31). -/
def Obligations.ParametersNeverWritten : Prop := ∀ s t : State, step s = .next t → t.cfg = s.cfg

/-! ### Who writes what -/

/-- Only reset, a settle completion and an accepted F, R, S or FFWD write `OP` (R22). -/
def Obligations.OnlyCommandsChangeDirection : Prop :=
  ∀ s t : State, step s = .next t → t.block.op ≠ s.block.op →
    s.inp.rst = true ∨ (s.block.ph = .settle ∧ s.block.cnt = 0#16) ∨
    (s.accepted = true ∧ decode s.inp.opw ∈ [Instr.f, .r, .s, .ffwd])

/-- Only a drive and reset write a duty register (R26). The drives are a settle completion, and an
accepted F outside FORWARD, R outside REVERSE, S outside STOP in MANUAL, and DRIVE. Between them the
registers hold their value, whatever `power_in` does. -/
def Obligations.OnlyDrivesWriteDuty : Prop :=
  ∀ s t : State, step s = .next t →
    (t.block.dutyF ≠ s.block.dutyF ∨ t.block.dutyR ≠ s.block.dutyR) →
    s.inp.rst = true ∨ (s.block.ph = .settle ∧ s.block.cnt = 0#16) ∨
    (s.accepted = true ∧
      ((decode s.inp.opw = .f ∧ s.block.op ≠ .forward) ∨
       (decode s.inp.opw = .r ∧ s.block.op ≠ .reverse) ∨
       (decode s.inp.opw = .s ∧ s.inp.manual = true ∧ s.block.op ≠ .stop) ∨
       decode s.inp.opw = .drive))

/-- "DRIVE is the only way a new `power_in` reaches the duty registers without a direction change"
(R110). -/
def Obligations.OnlyDriveReappliesPower : Prop :=
  ∀ s t : State, BlockInv s.cfg s.block → step s = .next t → t.block.op = s.block.op →
    (t.block.dutyF ≠ s.block.dutyF ∨ t.block.dutyR ≠ s.block.dutyR) →
    s.accepted = true ∧ decode s.inp.opw = .drive

/-- The direction never goes from FORWARD to REVERSE or back in one step: a reversal passes through
STOP (R152; the source's §8). -/
def Obligations.ReversalPassesThroughStop : Prop :=
  ∀ s t : State, BlockInv s.cfg s.block → step s = .next t →
    ¬(s.block.op = .forward ∧ t.block.op = .reverse) ∧
    ¬(s.block.op = .reverse ∧ t.block.op = .forward)

/-- The settle phase is entered only by an accepted command for the opposite direction, with the
motor stopped, the target remembered and the full delay still to count (R23, R137). -/
def Obligations.SettleEnteredOnlyByReversal : Prop :=
  ∀ s t : State, step s = .next t → s.block.ph = .idle → t.block.ph = .settle →
    s.accepted = true ∧ t.block.op = .stop ∧ t.block.cnt = s.cfg.settleTicks ∧
    t.block.dutyF = 0#7 ∧ t.block.dutyR = 0#7 ∧
    ((decode s.inp.opw = .f ∧ s.block.op = .reverse ∧ t.block.tgt = some .forward) ∨
     (decode s.inp.opw = .r ∧ s.block.op = .forward ∧ t.block.tgt = some .reverse))

/-! ### Errors -/

/-- `ERR_PWR` (R201): outside reset it becomes or stays set exactly when it was set or a drive of
this cycle uses an out-of-range power; that drive still completes and its active channel gets 100.
"The 100 must not be relied on": such a run counts as faulted (log entry 2). In the unreachable
completion with `TGT = 0b00` the power is not used, which is the model's choice (log entry 7). -/
def Obligations.PowerErrorExactlyWhenUsed : Prop :=
  ∀ s t : State, step s = .next t → s.inp.rst = false →
    t.block.errPwr =
      (s.block.errPwr || (powerUsed s && decide (9 < s.inp.powerIn.toNat))) ∧
    (powerUsed s = true → 9 < s.inp.powerIn.toNat →
      (t.block.op = .forward ∧ t.block.dutyF = 100#7 ∧ t.block.dutyR = 0#7) ∨
      (t.block.op = .reverse ∧ t.block.dutyF = 0#7 ∧ t.block.dutyR = 100#7))

/-- `ERR_ILL` (R202): outside reset it becomes or stays set exactly when it was set or a word
0x103..0x1FF is accepted in this cycle. -/
def Obligations.IllegalErrorExactlyWhenAccepted : Prop :=
  ∀ s t : State, step s = .next t → s.inp.rst = false →
    t.block.errIll = (s.block.errIll || (s.accepted && decide (0x103 ≤ s.inp.opw.toNat)))

/-- One cycle sets at most one of the two error flags (R205). -/
def Obligations.AtMostOneNewErrorPerCycle : Prop :=
  ∀ s t : State, step s = .next t →
    ¬(s.block.errPwr = false ∧ t.block.errPwr = true ∧
      s.block.errIll = false ∧ t.block.errIll = true)

/-- A set error flag always stands for a recorded fault: every step keeps this (R201, R202). The
record itself is the model's own field (log entry 2). -/
def Obligations.StepKeepsErrorsRecorded : Prop :=
  ∀ s t : State, ErrorsRecorded s → step s = .next t → ErrorsRecorded t

/-- The fault record holds the first error of a run and never changes again, not even by a reset: "the
run is never a good final state" (93_implementation_defined.md, section 1). The record is the
model's own field and its choice (log entry 2). In the unreachable completion with `TGT = 0b00` the
power is not used and nothing is recorded, the model's choice too (log entry 7). -/
def Obligations.FaultRecordKeepsTheFirstError : Prop :=
  ∀ s t : State, step s = .next t →
    t.fault =
      match s.fault with
      | some k => some k
      | none =>
        if powerUsed s = true ∧ 9 < s.inp.powerIn.toNat then some .powerOutOfRange
        else if s.accepted = true ∧ 0x103 ≤ s.inp.opw.toNat then some .illegalWord
        else none

/-! ### What is read -/

/-- The handshake (R29): when the block is ready, when a word is accepted, and that in any other cycle
the block does the same whatever is on `opw`. -/
def Obligations.HandshakeIgnoresUnacceptedWord : Prop :=
  ∀ s : State,
    (s.outputs.opwReady = true ↔ s.block.ph = .idle ∧ s.inp.rst = false) ∧
    (s.accepted = true ↔ s.inp.opwValid = true ∧ s.outputs.opwReady = true) ∧
    ∀ w : OpWord, s.accepted = false →
      blockAfter (step { s with inp := { s.inp with opw := w } }) = blockAfter (step s)

/-- Only S reads `manual` (R134, R208): no other operation does, and no cycle but one that accepts an
S. -/
def Obligations.OnlyStopReadsManual : Prop :=
  (∀ (i : Instr) (s : State) (m : Bool), i ≠ .s →
    blockAfter (exec i { s with inp := { s.inp with manual := m } }) = blockAfter (exec i s)) ∧
  (∀ (s : State) (m : Bool), (s.accepted = true → decode s.inp.opw ≠ .s) →
    blockAfter (step { s with inp := { s.inp with manual := m } }) = blockAfter (step s))

/-- Only a drive in direction FORWARD or REVERSE reads `power_in` (R104, R201): S, FFWD, NOP, an
ignored byte and an illegal word never do, F and R only in STOP, DRIVE only outside STOP. Of all
cycles, only one with such an accepted word or with a settle completion does. In the unreachable
completion with `TGT = 0b00` the power is not read, which is the model's choice (log entry 7). -/
def Obligations.OnlyDrivesReadPower : Prop :=
  (∀ (i : Instr) (s : State) (p : Power),
    (i = .f ∨ i = .r → s.block.op ≠ .stop) → (i = .drive → s.block.op = .stop) →
    blockAfter (exec i { s with inp := { s.inp with powerIn := p } }) = blockAfter (exec i s)) ∧
  (∀ (s : State) (p : Power), powerUsed s = false →
    blockAfter (step { s with inp := { s.inp with powerIn := p } }) = blockAfter (step s))

/-- "`in.tick` in an IDLE cycle has no effect" (R130). -/
def Obligations.TickIgnoredInIdle : Prop :=
  ∀ (s : State) (b : Bool), s.block.ph = .idle →
    blockAfter (step { s with inp := { s.inp with tick := b } }) = blockAfter (step s)

/-! ### Events and outputs -/

/-- After every step the event register holds no event or one of the seven codes of R204: the
reserved codes, and code 0 with `evt_valid = 1`, never occur (R28; U7). -/
def Obligations.EventAlwaysLegal : Prop := ∀ s t : State, step s = .next t → EventLegal t.block

/-- What each event code means (R204). -/
def Obligations.EventTellsWhatHappened : Prop :=
  ∀ s t : State, BlockInv s.cfg s.block → step s = .next t →
    (t.block.evtCode = 0x1#4 → s.block.op = .stop ∧ t.block.op = .forward) ∧
    (t.block.evtCode = 0x2#4 → s.block.op = .stop ∧ t.block.op = .reverse) ∧
    (t.block.evtCode = 0x3#4 →
      s.block.op ≠ .stop ∧ t.block.op = .stop ∧ t.block.ph = .idle ∧ s.inp.manual = true) ∧
    (t.block.evtCode = 0x4#4 →
      s.block.op ≠ .stop ∧ t.block.op = .stop ∧ t.block.ph = .settle) ∧
    (t.block.evtCode = 0x5#4 →
      s.block.op = .stop ∧ t.block.op = .forward ∧ t.block.dutyF = 0#7 ∧ t.block.dutyR = 0#7) ∧
    (t.block.evtCode = 0x6#4 → t.block.op = s.block.op ∧ s.cfg.notifyNoop = true) ∧
    (t.block.evtCode = 0x7#4 → t.block.op = s.block.op ∧ s.inp.manual = false)

/-- Every change of direction outside reset is notified in the next cycle ("Each transition emits a
human-readable status notification", R4, R204). -/
def Obligations.DirectionChangeIsNotified : Prop :=
  ∀ s t : State, step s = .next t → s.inp.rst = false → t.block.op ≠ s.block.op →
    t.outputs.evtValid = true

/-- The layout of the status word, field by field, and its value after reset (R32). -/
def Obligations.StatusWordLayout : Prop :=
  (∀ b : Block,
    b.status.extractLsb' 0 2 =
      (match b.op with | .stop => 0b00#2 | .forward => 0b01#2 | .reverse => 0b10#2) ∧
    b.status.extractLsb' 2 1 = (match b.ph with | .idle => 0#1 | .settle => 1#1) ∧
    b.status.extractLsb' 3 2 =
      (match b.tgt with | none => 0b00#2 | some .forward => 0b01#2 | some .reverse => 0b10#2) ∧
    b.status.getLsbD 5 = b.errPwr ∧ b.status.getLsbD 6 = b.errIll ∧
    b.status.extractLsb' 7 9 = 0#9) ∧
  Block.reset.status = 0x0000#16

/-- The output ports (R30): all but `opw_ready` are register values, so no input of the cycle changes
them. -/
def Obligations.OutputPortValues : Prop :=
  ∀ s : State,
    s.outputs.dutyF = s.block.dutyF ∧ s.outputs.dutyR = s.block.dutyR ∧
    s.outputs.opState = s.block.op.code ∧ s.outputs.busy = s.block.ph.code ∧
    s.outputs.evtValid = s.block.evtV ∧ s.outputs.evtCode = s.block.evtCode ∧
    s.outputs.status = s.block.status ∧
    ∀ q : Ports, { s with inp := q }.outputs = { s.outputs with
      opwReady := ({ s with inp := q } : State).opwReady }

/-! ### Invariants -/

/-- Every step keeps the invariants I1 to I7 of R34, from every state that meets them. -/
def Obligations.StepKeepsBlockInvariant : Prop :=
  ∀ s t : State, BlockInv s.cfg s.block → step s = .next t → BlockInv t.cfg t.block

/-- A state that meets the invariants and every state a step leads to from it hold percents of 0..100
on both channels, at most one of them nonzero (R8, R34). -/
def Obligations.DutyStaysAPercent : Prop :=
  ∀ s t : State, BlockInv s.cfg s.block → step s = .next t →
    s.block.dutyF ≤ 100#7 ∧ s.block.dutyR ≤ 100#7 ∧
    (s.block.dutyF = 0#7 ∨ s.block.dutyR = 0#7) ∧
    t.block.dutyF ≤ 100#7 ∧ t.block.dutyR ≤ 100#7 ∧
    (t.block.dutyF = 0#7 ∨ t.block.dutyR = 0#7)

/-- An environment that presents legal power levels and offers no illegal word, the host software
among them, never causes a fault: every step keeps a fault-free, disciplined state so (R201, R202,
R243). -/
def Obligations.DisciplinedHostNeverFaults : Prop :=
  ∀ s t : State, Disciplined s → step s = .next t → Disciplined t

/-- Any script of lawful lines, the host software's lines among them, can be placed on a disciplined
machine, as a stimulus program or as host activity, and leaves it disciplined (R80, R171, R243). -/
def Obligations.LawfulScriptIsDisciplined : Prop :=
  ∀ (s : State) (script : List Line), Disciplined s → (∀ l ∈ script, l.lawful = true) →
    Disciplined (s.load script) ∧ Disciplined (s.loadHost script)

/-! ### The settle delay -/

/-- The settle duration (R151, R152), for every input sequence without reset. The block has `CNT`
ticks to count and is given the cycles `wait` that bring exactly these ticks (no proper part of them
does), then the cycle `last`. Through all of `wait` the motor is stopped, no word is taken and no
event is emitted; the cycle `last` completes the reversal, and exactly then. -/
def Obligations.SettleCompletesAfterItsTicks : Prop :=
  ∀ (s : State) (d : Turn) (wait : List Ports) (last : Ports) (later : List Ports),
    BlockInv s.cfg s.block → s.block.ph = .settle → s.block.tgt = some d →
    (∀ p ∈ wait, p.rst = false) → last.rst = false →
    tickCount wait = s.block.cnt.toNat →
    (∀ n < wait.length, tickCount (wait.take n) < s.block.cnt.toNat) →
    (∀ n ≤ wait.length, ∃ u, run n (s.withInputs (wait ++ last :: later)) = .next u ∧
      u.block.op = .stop ∧ u.block.dutyF = 0#7 ∧ u.block.dutyR = 0#7 ∧ u.block.ph = .settle ∧
      u.block.tgt = some d ∧ u.opwReady = false ∧ (n ≠ 0 → u.block.evtV = false)) ∧
    ∃ v, run (wait.length + 1) (s.withInputs (wait ++ last :: later)) = .next v ∧
      v.block.op = d.toDirection ∧ v.block.ph = .idle ∧ v.block.tgt = none ∧
      v.block.cnt = 0#16 ∧
      (v.block.dutyF, v.block.dutyR) = drivePair s.cfg d.toDirection last.powerIn ∧
      v.block.evtV = true ∧ v.block.evtCode = (if d = .forward then 0x1#4 else 0x2#4)

/-- "A missing time base (no tick ever) leaves the block in SETTLE forever" (R207): over any number
of cycles without a tick and without reset, the block stays as it is but for the event register. -/
def Obligations.SettleHangsWithoutTicks : Prop :=
  ∀ (s : State) (wait : List Ports),
    s.block.ph = .settle → s.block.cnt ≠ 0#16 →
    (∀ p ∈ wait, p.rst = false ∧ p.tick = false) → wait ≠ [] →
    ∃ u, run wait.length (s.withInputs wait) = .next u ∧
      u.block = { s.block with evtV := false, evtCode := 0x0#4 }

/-- After an accepted F the direction is FORWARD, or a reversal to FORWARD is under way; after R
likewise REVERSE; after S in MANUAL it is STOP (R156, marked derived in the spec). -/
def Obligations.CommandReachesItsDirection : Prop :=
  ∀ s : State,
    (∃ t, exec .f s = .next t ∧
      (t.block.op = .forward ∨ (t.block.ph = .settle ∧ t.block.tgt = some .forward))) ∧
    (∃ t, exec .r s = .next t ∧
      (t.block.op = .reverse ∨ (t.block.ph = .settle ∧ t.block.tgt = some .reverse))) ∧
    (s.inp.manual = true → ∃ t, exec .s s = .next t ∧ t.block.op = .stop)

/-- Repeating a command that has taken effect changes nothing but the event register ("fixed-point
idempotence", R54, R156). -/
def Obligations.RepeatedCommandChangesNothing : Prop :=
  ∀ (i : Instr) (s t : State), i ∈ [Instr.f, .r, .s] → s.block.ph = .idle →
    exec i s = .next t → t.block.ph = .idle →
    ∃ u, exec i t = .next u ∧ u.fault = t.fault ∧
      u.block = { t.block with evtV := u.block.evtV, evtCode := u.block.evtCode }

/-! ### The host software and the stimulus -/

/-- `updatePower()` (R171): in STOP Power is unchanged and the host notifies; outside it, a digit sets it in MANUAL, the
sensor reading divided by 384 and clamped to 9 gives it in LIGHT_CONTROL, and the ramp moves it by
exactly one in TIME_CONTROL, turning at 9 and at 0. -/
def Obligations.UpdatePowerResult : Prop :=
  ∀ (h : HostState) (op : Direction) (digit : Option (Fin 10)),
    ((h.updatePower op digit).mode = h.mode) ∧
    (op = .stop → (h.updatePower op digit).power = h.power ∧
      (h.updatePower op digit).ramp = h.ramp ∧
      (h.updatePower op digit).sent = h.sent ++ [.suppressed]) ∧
    (op ≠ .stop → h.mode = .manual → ∀ d, digit = some d →
      (h.updatePower op digit).power = d) ∧
    (op ≠ .stop → h.mode = .lightControl →
      (h.updatePower op digit).power.val = min (h.sensor / 384) 9) ∧
    (op ≠ .stop → h.mode = .timeControl →
      (h.power.val = 9 → (h.updatePower op digit).power.val = 8 ∧
        (h.updatePower op digit).ramp = .decreasing) ∧
      (h.power.val = 0 → (h.updatePower op digit).power.val = 1 ∧
        (h.updatePower op digit).ramp = .increasing) ∧
      (0 < h.power.val → h.power.val < 9 →
        (h.updatePower op digit).ramp = h.ramp ∧
        (h.ramp = .increasing → (h.updatePower op digit).power.val = h.power.val + 1) ∧
        (h.ramp = .decreasing → (h.updatePower op digit).power.val + 1 = h.power.val)))

/-- The Mode State Machine (R177): a trigger code toggles MANUAL and its own auto mode, and notifies
naming the resulting mode; there is no direct way from one auto mode to the other, for any pair of
different trigger codes. That the other pair's trigger is a no-op with a notification is decision D23,
where the source is undefined (U10): a choice, not a rule of the source. That other codes do nothing is
log entry 14, and the values that stand for notifications are log entry 15. -/
def Obligations.ModeTogglesOnlyThroughManual : Prop :=
  ∀ (p : HostParams) (code : Nat) (m : Mode), p.lightTrigger ≠ p.timeTrigger →
    (m = .lightControl → (toggleMode p code m).1 ≠ .timeControl) ∧
    (m = .timeControl → (toggleMode p code m).1 ≠ .lightControl) ∧
    (code = p.lightTrigger → m = .manual →
      toggleMode p code m = (.lightControl, some (.modeIs .lightControl))) ∧
    (code = p.lightTrigger → m = .lightControl →
      toggleMode p code m = (.manual, some (.modeIs .manual))) ∧
    (code = p.lightTrigger → m = .timeControl →
      toggleMode p code m = (.timeControl, some .triggerIgnored)) ∧
    (code = p.timeTrigger → m = .manual →
      toggleMode p code m = (.timeControl, some (.modeIs .timeControl))) ∧
    (code = p.timeTrigger → m = .timeControl →
      toggleMode p code m = (.manual, some (.modeIs .manual))) ∧
    (code = p.timeTrigger → m = .lightControl →
      toggleMode p code m = (.lightControl, some .triggerIgnored))

/-- What the host does with a serial byte (R172, R175): 'F', 'R' and 'S' are offered to the block in
every mode; a digit runs `updatePower()` and offers DRIVE in MANUAL, and is rejected with Power
unchanged and a notification outside it; any other byte is dropped. The inbox is empty afterwards. That DRIVE is offered
in STOP too, where R171 lets a host skip it, and that other bytes are dropped instead of offered are
the model's choices (log entry 14). -/
def Obligations.SerialByteRouting : Prop :=
  ∀ (h : HostState) (op : Direction) (b : Byte), h.serial = some b →
    (h.pollSerial op).1.serial = none ∧ (h.pollSerial op).1.mode = h.mode ∧
    (b = 0x46#8 → h.pollSerial op = ({ h with serial := none }, some 0x046#9)) ∧
    (b = 0x52#8 → h.pollSerial op = ({ h with serial := none }, some 0x052#9)) ∧
    (b = 0x53#8 → h.pollSerial op = ({ h with serial := none }, some 0x053#9)) ∧
    (∀ d : Fin 10, b.toNat = 0x30 + d.val →
      (h.mode = .manual → (h.pollSerial op).2 = some 0x101#9 ∧
        (op ≠ .stop → (h.pollSerial op).1.power = d) ∧
        (op = .stop → (h.pollSerial op).1.power = h.power)) ∧
      (h.mode ≠ .manual → h.pollSerial op =
        ({ h with serial := none, sent := h.sent ++ [.digitRejected] }, none))) ∧
    (b ≠ 0x46#8 → b ≠ 0x52#8 → b ≠ 0x53#8 → ¬(0x30 ≤ b.toNat ∧ b.toNat ≤ 0x39) →
      h.pollSerial op = ({ h with serial := none }, none))

/-- No notification of the host is lost (R175, R177): every step keeps those already made, in their
order, and a step after which the host polls its serial or button inbox adds the notification of a
digit outside MANUAL, or of a trigger, whatever the host does after that before the next cycle. That
they are all kept in one list, also when the host boots, is the model's choice (log entry 15). -/
def Obligations.HostNotificationsAreKept : Prop :=
  (∀ s t : State, step s = .next t → s.env.host.sent <+: t.env.host.sent) ∧
  ∀ (s : State) (rest : List Line), (s.env.hold = true → s.accepted = true) →
    ∃ t, step s = .next t ∧
      (t.block.ph = .idle →
        (∀ b, s.env.script = .host .serial :: rest → s.env.host.serial = some b →
          s.env.host.mode ≠ .manual → 0x30 ≤ b.toNat → b.toNat ≤ 0x39 →
          s.env.host.sent ++ [.digitRejected] <+: t.env.host.sent) ∧
        (∀ code, s.env.script = .host .mode :: rest → s.env.host.button = some code →
          s.env.host.sent ++ (toggleMode s.cfg.host code s.env.host.mode).2.toList <+:
            t.env.host.sent))

/-- The host takes no further step of its loop while the block is busy, and offers nothing then
(R173), from the first busy cycle on: after every step that leaves the block in SETTLE, the step that
accepts the reversal among them, a host line stays at the head of the script, the host's state stays,
and no word is offered, with the levels unchanged. The only tick of such a cycle is the time base's (R234,
step 4), whose form is the model's choice (log entries 11 and 22). (A word still held by an operation
line is `OfferedWordIsHeld`.) -/
def Obligations.HostWaitsWhileBusy : Prop :=
  ∀ (s : State) (a : HostAct) (rest : List Line), s.env.script = .host a :: rest →
    (s.env.hold = true → s.accepted = true) →
    ∃ t, step s = .next t ∧
      (t.block.ph = .settle →
        t.env.script = .host a :: rest ∧ t.env.hold = false ∧ t.env.host = s.env.host ∧
        t.inp.opwValid = false ∧ t.inp.rst = false ∧ t.inp.tick = strobes s.env.timeBase ∧
        t.env.timeBase = nextTimeBase s.cfg.host s.env.timeBase ∧
        t.inp.powerIn = s.inp.powerIn ∧ t.inp.manual = s.inp.manual)

/-- An operation line offers its word cycle after cycle until it is accepted (R80): while the block
is busy the word stays on the port and the script does not move. Without a time base, as in every
stimulus program, there is no tick; a time base that runs goes on beside it (log entry 22). -/
def Obligations.OfferedWordIsHeld : Prop :=
  ∀ s : State, s.env.hold = true → s.accepted = false →
    ∃ t, step s = .next t ∧
      t.inp = { s.inp with tick := strobes s.env.timeBase } ∧
      t.env = { s.env with timeBase := nextTimeBase s.cfg.host s.env.timeBase }

/-- What the host does before its first word, in R234's order: a cycle with `rst = 1`; then, with `rst`
still 1, the boot levels (Power 9, MANUAL), the boot values of the host's state, and the time base
started; then `rst` released and the rest of the script. The block is then in its reset state. The
second reset cycle and the place of the first strobe are the model's choice (log entry 22). -/
def Obligations.HostBootFollowsItsOrder : Prop :=
  ∀ (s : State) (wait : Nat) (rest : List Line),
    let s0 := s.loadHost (hostBoot wait ++ rest)
    s0.inp.rst = true ∧ s0.inp.opwValid = false ∧
    ∃ t, step s0 = .next t ∧ t.block = Block.reset ∧
      t.inp.rst = true ∧ t.inp.opwValid = false ∧ t.inp.powerIn = 9#4 ∧ t.inp.manual = true ∧
      t.env.host.power = 9 ∧ t.env.host.mode = .manual ∧ t.env.host.ramp = s.cfg.host.rampInit ∧
      t.env.host.serial = none ∧ t.env.host.button = none ∧
      t.inp.tick = decide (wait = 0) ∧ t.env.timeBase ≠ none ∧ t.env.script = rest ∧
      ∃ u, step t = .next u ∧ u.block = Block.reset ∧
        (rest = [] → u.inp.rst = false ∧ u.inp.powerIn = 9#4 ∧ u.inp.manual = true ∧
          u.env.timeBase ≠ none)

/-- "one one-cycle strobe per `TICK_PERIOD`" (R234, R245): with no line left in the script, a time base
whose next strobe comes after `k` cycles without one strobes in that cycle, then once in every period
and in no other cycle, for ever. A period of `tickCycles` clock cycles (0 counts as 1) and any first
place are the model's choice (log entry 22). -/
def Obligations.TimeBaseKeepsItsPeriod : Prop :=
  ∀ (s : State) (k n : Nat),
    s.env.script = [] → s.env.hold = false → s.env.timeBase = some k →
    ∃ u, run (n + 1) s = .next u ∧
      (u.inp.tick = true ↔ k ≤ n ∧ (n - k) % max s.cfg.host.tickCycles 1 = 0)

/-- A reversal ends without any tick from the script once the host has started its time base (R173,
R234, D25): whether the host waits with an action or has none left, a block in SETTLE has entered its
target direction after at most the ticks still to count, one period apart. The period in cycles is the
model's parameter (log entry 22). -/
def Obligations.HostReversalEnds : Prop :=
  ∀ (s : State) (d : Turn) (k : Nat),
    BlockInv s.cfg s.block → s.block.ph = .settle → s.block.tgt = some d →
    s.inp.rst = false → s.env.hold = false → s.env.timeBase = some k →
    (s.env.script = [] ∨ ∃ a rest, s.env.script = .host a :: rest) →
    ∃ n ≤ k + s.block.cnt.toNat * max s.cfg.host.tickCycles 1 + 2, ∃ t,
      run n s = .next t ∧ t.block.op = d.toDirection ∧ t.block.ph = .idle
end

