-- ==== Sys2Proof/Laws/State.lean ====
section
/-! SUPPORT. The small lemmas of the state's updates: what each elementary operation leaves in each
field. Every one is true by rfl and a simp lemma, so that no later proof unfolds a record update. -/

namespace Sys2Proof.Machine

/-! ### The block -/

@[simp] theorem Block.emit_op (e : Event) (b : Block) : (b.emit e).op = b.op := rfl
@[simp] theorem Block.emit_ph (e : Event) (b : Block) : (b.emit e).ph = b.ph := rfl
@[simp] theorem Block.emit_tgt (e : Event) (b : Block) : (b.emit e).tgt = b.tgt := rfl
@[simp] theorem Block.emit_cnt (e : Event) (b : Block) : (b.emit e).cnt = b.cnt := rfl
@[simp] theorem Block.emit_dutyF (e : Event) (b : Block) : (b.emit e).dutyF = b.dutyF := rfl
@[simp] theorem Block.emit_dutyR (e : Event) (b : Block) : (b.emit e).dutyR = b.dutyR := rfl
@[simp] theorem Block.emit_errPwr (e : Event) (b : Block) : (b.emit e).errPwr = b.errPwr := rfl
@[simp] theorem Block.emit_errIll (e : Event) (b : Block) : (b.emit e).errIll = b.errIll := rfl
@[simp] theorem Block.emit_evtV (e : Event) (b : Block) : (b.emit e).evtV = true := rfl
@[simp] theorem Block.emit_evtCode (e : Event) (b : Block) : (b.emit e).evtCode = e.code := rfl

@[simp] theorem Block.quiet_op (b : Block) : b.quiet.op = b.op := rfl
@[simp] theorem Block.quiet_ph (b : Block) : b.quiet.ph = b.ph := rfl
@[simp] theorem Block.quiet_tgt (b : Block) : b.quiet.tgt = b.tgt := rfl
@[simp] theorem Block.quiet_cnt (b : Block) : b.quiet.cnt = b.cnt := rfl
@[simp] theorem Block.quiet_dutyF (b : Block) : b.quiet.dutyF = b.dutyF := rfl
@[simp] theorem Block.quiet_dutyR (b : Block) : b.quiet.dutyR = b.dutyR := rfl
@[simp] theorem Block.quiet_errPwr (b : Block) : b.quiet.errPwr = b.errPwr := rfl
@[simp] theorem Block.quiet_errIll (b : Block) : b.quiet.errIll = b.errIll := rfl
@[simp] theorem Block.quiet_evtV (b : Block) : b.quiet.evtV = false := rfl
@[simp] theorem Block.quiet_evtCode (b : Block) : b.quiet.evtCode = 0#4 := rfl

@[simp] theorem Block.setFlag_op (k : Fault) (b : Block) : (b.setFlag k).op = b.op := by
  cases k <;> rfl
@[simp] theorem Block.setFlag_ph (k : Fault) (b : Block) : (b.setFlag k).ph = b.ph := by
  cases k <;> rfl
@[simp] theorem Block.setFlag_tgt (k : Fault) (b : Block) : (b.setFlag k).tgt = b.tgt := by
  cases k <;> rfl
@[simp] theorem Block.setFlag_cnt (k : Fault) (b : Block) : (b.setFlag k).cnt = b.cnt := by
  cases k <;> rfl
@[simp] theorem Block.setFlag_dutyF (k : Fault) (b : Block) : (b.setFlag k).dutyF = b.dutyF := by
  cases k <;> rfl
@[simp] theorem Block.setFlag_dutyR (k : Fault) (b : Block) : (b.setFlag k).dutyR = b.dutyR := by
  cases k <;> rfl
@[simp] theorem Block.setFlag_evtV (k : Fault) (b : Block) : (b.setFlag k).evtV = b.evtV := by
  cases k <;> rfl
@[simp] theorem Block.setFlag_evtCode (k : Fault) (b : Block) : (b.setFlag k).evtCode = b.evtCode := by
  cases k <;> rfl

@[simp] theorem Block.setFlag_power (b : Block) :
    b.setFlag .powerOutOfRange = { b with errPwr := true } := rfl
@[simp] theorem Block.setFlag_illegal (b : Block) :
    b.setFlag .illegalWord = { b with errIll := true } := rfl
@[simp] theorem recordFault_none (k : Fault) : recordFault k none = some k := rfl
@[simp] theorem recordFault_some (k g : Fault) : recordFault k (some g) = some g := rfl

/-! ### The state -/

@[simp] theorem State.emit_block (e : Event) (s : State) : (s.emit e).block = s.block.emit e := rfl
@[simp] theorem State.emit_cfg (e : Event) (s : State) : (s.emit e).cfg = s.cfg := rfl
@[simp] theorem State.emit_inp (e : Event) (s : State) : (s.emit e).inp = s.inp := rfl
@[simp] theorem State.emit_env (e : Event) (s : State) : (s.emit e).env = s.env := rfl
@[simp] theorem State.emit_fault (e : Event) (s : State) : (s.emit e).fault = s.fault := rfl

@[simp] theorem State.quiet_block (s : State) : (s.quiet).block = s.block.quiet := rfl
@[simp] theorem State.quiet_cfg (s : State) : (s.quiet).cfg = s.cfg := rfl
@[simp] theorem State.quiet_inp (s : State) : (s.quiet).inp = s.inp := rfl
@[simp] theorem State.quiet_env (s : State) : (s.quiet).env = s.env := rfl
@[simp] theorem State.quiet_fault (s : State) : (s.quiet).fault = s.fault := rfl

@[simp] theorem State.setErr_block (k : Fault) (s : State) :
    (s.setErr k).block = s.block.setFlag k := rfl
@[simp] theorem State.setErr_cfg (k : Fault) (s : State) : (s.setErr k).cfg = s.cfg := rfl
@[simp] theorem State.setErr_inp (k : Fault) (s : State) : (s.setErr k).inp = s.inp := rfl
@[simp] theorem State.setErr_env (k : Fault) (s : State) : (s.setErr k).env = s.env := rfl
@[simp] theorem State.setErr_fault (k : Fault) (s : State) :
    (s.setErr k).fault = recordFault k s.fault := rfl

@[simp] theorem State.resetBlock_block (s : State) : (s.resetBlock).block = Block.reset := rfl
@[simp] theorem State.resetBlock_cfg (s : State) : (s.resetBlock).cfg = s.cfg := rfl
@[simp] theorem State.resetBlock_inp (s : State) : (s.resetBlock).inp = s.inp := rfl
@[simp] theorem State.resetBlock_env (s : State) : (s.resetBlock).env = s.env := rfl
@[simp] theorem State.resetBlock_fault (s : State) : (s.resetBlock).fault = s.fault := rfl

@[simp] theorem State.setOp_block (d : Direction) (s : State) :
    (s.setOp d).block = { s.block with op := d } := rfl
@[simp] theorem State.setOp_cfg (d : Direction) (s : State) : (s.setOp d).cfg = s.cfg := rfl
@[simp] theorem State.setOp_inp (d : Direction) (s : State) : (s.setOp d).inp = s.inp := rfl
@[simp] theorem State.setOp_env (d : Direction) (s : State) : (s.setOp d).env = s.env := rfl
@[simp] theorem State.setOp_fault (d : Direction) (s : State) : (s.setOp d).fault = s.fault := rfl

@[simp] theorem State.writeDuty_block (p : Percent × Percent) (s : State) :
    (s.writeDuty p).block = { s.block with dutyF := p.1, dutyR := p.2 } := rfl
@[simp] theorem State.writeDuty_cfg (p : Percent × Percent) (s : State) :
    (s.writeDuty p).cfg = s.cfg := rfl
@[simp] theorem State.writeDuty_inp (p : Percent × Percent) (s : State) :
    (s.writeDuty p).inp = s.inp := rfl
@[simp] theorem State.writeDuty_env (p : Percent × Percent) (s : State) :
    (s.writeDuty p).env = s.env := rfl
@[simp] theorem State.writeDuty_fault (p : Percent × Percent) (s : State) :
    (s.writeDuty p).fault = s.fault := rfl

@[simp] theorem State.setSequencer_block (ph : Phase) (tgt : Option Turn) (cnt : Count) (s : State) :
    (s.setSequencer ph tgt cnt).block = { s.block with ph := ph, tgt := tgt, cnt := cnt } := rfl
@[simp] theorem State.setSequencer_cfg (ph : Phase) (tgt : Option Turn) (cnt : Count) (s : State) :
    (s.setSequencer ph tgt cnt).cfg = s.cfg := rfl
@[simp] theorem State.setSequencer_inp (ph : Phase) (tgt : Option Turn) (cnt : Count) (s : State) :
    (s.setSequencer ph tgt cnt).inp = s.inp := rfl
@[simp] theorem State.setSequencer_env (ph : Phase) (tgt : Option Turn) (cnt : Count) (s : State) :
    (s.setSequencer ph tgt cnt).env = s.env := rfl
@[simp] theorem State.setSequencer_fault (ph : Phase) (tgt : Option Turn) (cnt : Count) (s : State) :
    (s.setSequencer ph tgt cnt).fault = s.fault := rfl

end Sys2Proof.Machine
end

