-- ==== Sys2Proof/Laws/Ops.lean ====
section
/-! SUPPORT. One lemma per shared operation that says once everything it does, and the frame every
operation of the block keeps: the parameters, the input ports and the environment. -/

namespace Sys2Proof

/-- Every duty table satisfies `P_duty`. -/
theorem DutyTable.pduty (table : DutyTable) : PDuty table.values :=
  of_decide_eq_true table.admitted

end Sys2Proof

namespace Sys2Proof.Machine

theorem SameSurroundings.refl (s : State) : SameSurroundings s s := ⟨rfl, rfl, rfl⟩

theorem SameSurroundings.trans {s t u : State} (h : SameSurroundings s t)
    (k : SameSurroundings t u) : SameSurroundings s u :=
  ⟨k.1.trans h.1, k.2.1.trans h.2.1, k.2.2.trans h.2.2⟩

/-! ### The mapper -/

theorem mapPower_legal (c : Config) (p : Power) (h : p.toNat < 10) :
    mapPower c p = c.dutyTable.values[p.toNat] := by simp [mapPower, h]

theorem mapPower_outOfRange (c : Config) (p : Power) (h : 10 ≤ p.toNat) : mapPower c p = 100#7 := by
  simp [mapPower, Nat.not_lt.mpr h]

theorem powerIllegal_iff (p : Power) : powerIllegal p = true ↔ 9 < p.toNat := by
  simp [powerIllegal, BitVec.lt_def]

@[simp] theorem drivePair_stop (c : Config) (p : Power) : drivePair c .stop p = (0#7, 0#7) := rfl
@[simp] theorem drivePair_forward (c : Config) (p : Power) :
    drivePair c .forward p = (mapPower c p, 0#7) := rfl
@[simp] theorem drivePair_reverse (c : Config) (p : Power) :
    drivePair c .reverse p = (0#7, mapPower c p) := rfl

/-! ### The drive -/

/-- The block after a drive: the pair is written, `ERR_PWR` is set when the power is used and out of
range, and nothing else changes. -/
theorem State.drive_block (d : Direction) (s : State) :
    (s.drive d).block =
      { s.block with
        dutyF := (drivePair s.cfg d s.inp.powerIn).1
        dutyR := (drivePair s.cfg d s.inp.powerIn).2
        errPwr := s.block.errPwr || (decide (d ≠ .stop) && powerIllegal s.inp.powerIn) } := by
  cases d <;> simp only [State.drive] <;> split <;> simp_all

theorem State.drive_fault (d : Direction) (s : State) :
    (s.drive d).fault =
      if decide (d ≠ .stop) && powerIllegal s.inp.powerIn then recordFault .powerOutOfRange s.fault
      else s.fault := by
  simp only [State.drive]; split <;> rfl

@[simp] theorem State.drive_cfg (d : Direction) (s : State) : (s.drive d).cfg = s.cfg := by
  simp only [State.drive]; split <;> rfl
@[simp] theorem State.drive_inp (d : Direction) (s : State) : (s.drive d).inp = s.inp := by
  simp only [State.drive]; split <;> rfl
@[simp] theorem State.drive_env (d : Direction) (s : State) : (s.drive d).env = s.env := by
  simp only [State.drive]; split <;> rfl

/-! ### The actions of the transition table -/

theorem State.enter_block (t : Turn) (s : State) :
    (s.enter t).block =
      { s.block with
        op := t.toDirection
        dutyF := (drivePair s.cfg t.toDirection s.inp.powerIn).1
        dutyR := (drivePair s.cfg t.toDirection s.inp.powerIn).2
        errPwr := s.block.errPwr || powerIllegal s.inp.powerIn
        evtV := true
        evtCode := t.event.code } := by
  cases t <;> simp [State.enter, State.drive_block, Block.emit, Turn.toDirection]

theorem State.enter_fault (t : Turn) (s : State) :
    (s.enter t).fault =
      if powerIllegal s.inp.powerIn then recordFault .powerOutOfRange s.fault else s.fault := by
  cases t <;> simp [State.enter, State.drive_fault, Turn.toDirection]

theorem State.enter_surroundings (t : Turn) (s : State) : SameSurroundings s (s.enter t) := by
  simp [SameSurroundings, State.enter]

theorem State.noop_eq (s : State) :
    s.noop = if s.cfg.notifyNoop then s.emit .noChange else s.quiet := rfl

theorem State.noop_surroundings (s : State) : SameSurroundings s s.noop := by
  simp only [State.noop]; split <;> simp [SameSurroundings]

theorem State.noop_fault (s : State) : s.noop.fault = s.fault := by
  simp only [State.noop]; split <;> rfl

theorem State.noop_block (s : State) :
    s.noop.block =
      { s.block with
        evtV := s.cfg.notifyNoop, evtCode := if s.cfg.notifyNoop then 0x6#4 else 0x0#4 } := by
  cases h : s.cfg.notifyNoop <;> simp [State.noop, h, Block.emit, Block.quiet, Event.code]

theorem State.stopMotor_block (s : State) :
    s.stopMotor.block =
      { s.block with op := .stop, dutyF := 0#7, dutyR := 0#7, evtV := true, evtCode := 0x3#4 } := rfl

theorem State.beginReversal_block (t : Turn) (s : State) :
    (s.beginReversal t).block =
      { s.block with
        op := .stop, dutyF := 0#7, dutyR := 0#7, ph := .settle, tgt := some t
        cnt := s.cfg.settleTicks, evtV := true, evtCode := 0x4#4 } := rfl

theorem State.stopMotor_fault (s : State) : s.stopMotor.fault = s.fault := rfl

theorem State.beginReversal_fault (t : Turn) (s : State) :
    (s.beginReversal t).fault = s.fault := rfl

theorem State.completeSettle_block (s : State) :
    s.completeSettle.block =
      { s.block with
        op := targetDirection s.block.tgt
        dutyF := (drivePair s.cfg (targetDirection s.block.tgt) s.inp.powerIn).1
        dutyR := (drivePair s.cfg (targetDirection s.block.tgt) s.inp.powerIn).2
        errPwr := s.block.errPwr ||
          (decide (targetDirection s.block.tgt ≠ .stop) && powerIllegal s.inp.powerIn)
        ph := .idle
        tgt := none
        evtV := true
        evtCode := (completionEvent s.block.tgt).code } := by
  simp [State.completeSettle, State.drive_block, Block.emit]

theorem State.completeSettle_fault (s : State) :
    s.completeSettle.fault =
      if decide (targetDirection s.block.tgt ≠ .stop) && powerIllegal s.inp.powerIn then
        recordFault .powerOutOfRange s.fault
      else s.fault :=
  (State.drive_fault (targetDirection s.block.tgt) (s.setOp (targetDirection s.block.tgt)))

theorem State.completeSettle_surroundings (s : State) : SameSurroundings s s.completeSettle := by
  simp [SameSurroundings, State.completeSettle]

/-- The settle step does one of three things (R150). -/
theorem State.settleStep_cases (s : State) :
    (s.block.cnt = 0#16 ∧ s.settleStep = s.completeSettle) ∨
    (s.block.cnt ≠ 0#16 ∧ s.inp.tick = true ∧
      s.settleStep =
        (s.setSequencer s.block.ph s.block.tgt (s.block.cnt - 1#16)).quiet) ∨
    (s.block.cnt ≠ 0#16 ∧ s.inp.tick = false ∧ s.settleStep = s.quiet) := by
  by_cases h : s.block.cnt = 0#16
  · exact .inl ⟨h, by simp [State.settleStep, h]⟩
  · cases k : s.inp.tick
    · exact .inr (.inr ⟨h, rfl, by simp [State.settleStep, h, k]⟩)
    · exact .inr (.inl ⟨h, rfl, by simp [State.settleStep, h, k]⟩)

theorem State.settleStep_surroundings (s : State) : SameSurroundings s s.settleStep := by
  obtain ⟨_, h⟩ | ⟨_, _, h⟩ | ⟨_, _, h⟩ := s.settleStep_cases
  · rw [h]; exact s.completeSettle_surroundings
  · rw [h]; simp [SameSurroundings]
  · rw [h]; simp [SameSurroundings]

end Sys2Proof.Machine
end

