-- ==== Sys2Proof/Laws/Environment.lean ====
section
/-! SUPPORT. What the environment can do: the host software presents legal power levels
and offers no illegal word, a script of lawful lines gives lawful inputs, and no notification is lost. -/

namespace Sys2Proof.Machine

/-- The words that decode to an illegal operation are 0x103..0x1FF. -/
theorem decode_illegal_iff (w : OpWord) : (∃ b, decode w = .word b) ↔ 0x103 ≤ w.toNat := by
  have table : ∀ w : OpWord,
      (match decode w with | .word _ => true | _ => false) = decide (0x103 ≤ w.toNat) := by decide
  have h := table w
  constructor
  · rintro ⟨b, hb⟩
    simpa [hb] using h
  · intro hw
    rw [decide_eq_true hw] at h
    split at h
    · exact ⟨_, ‹_›⟩
    · cases h

/-- The host's power level is legal. -/
theorem HostState.levels_legal (h : HostState) :
    powerIllegal (BitVec.ofNat 4 h.power.val) = false := by
  rcases h with ⟨⟨n, hn⟩, _⟩
  simp only [powerIllegal, BitVec.lt_def, BitVec.toNat_ofNat]
  simp; omega

/-- A serial command is no illegal word. -/
theorem commandWord_legal {b : Byte} {w : OpWord} (h : commandWord b = some w) :
    illegalOpw w = false := by
  revert h
  unfold commandWord
  split
  · rename_i hb
    rintro ⟨⟩
    simp only [isCommandByte, Bool.or_eq_true, beq_iff_eq] at hb
    rcases hb with (rfl | rfl) | rfl <;> decide
  · nofun

/-- The host offers no illegal word. -/
theorem HostState.act_offers_legal {p : HostParams} {op : Direction} {a : HostAct}
    {h h' : HostState} {w : OpWord} (e : h.act p op a = some (h', some w)) :
    illegalOpw w = false := by
  cases a <;> simp only [HostState.act, HostState.pollSerial, HostState.regulate] at e <;>
    (repeat' split at e) <;> simp_all only [Option.some.injEq, Prod.mk.injEq, reduceCtorEq,
      and_false] <;>
    first
      | (obtain ⟨_, rfl⟩ := e; decide)
      | exact commandWord_legal e.2

/-! ### The notifications the host has made -/

@[simp] theorem HostState.notify_sent (n : HostNote) (h : HostState) :
    (h.notify n).sent = h.sent ++ [n] := rfl
@[simp] theorem HostState.notify_power (n : HostNote) (h : HostState) :
    (h.notify n).power = h.power := rfl
@[simp] theorem HostState.notify_mode (n : HostNote) (h : HostState) :
    (h.notify n).mode = h.mode := rfl
@[simp] theorem HostState.notify_sensor (n : HostNote) (h : HostState) :
    (h.notify n).sensor = h.sensor := rfl
@[simp] theorem HostState.notify_ramp (n : HostNote) (h : HostState) :
    (h.notify n).ramp = h.ramp := rfl
@[simp] theorem HostState.notify_serial (n : HostNote) (h : HostState) :
    (h.notify n).serial = h.serial := rfl
@[simp] theorem HostState.notify_button (n : HostNote) (h : HostState) :
    (h.notify n).button = h.button := rfl
@[simp] theorem HostState.reboot_sent (p : HostParams) (h : HostState) :
    (h.reboot p).sent = h.sent := rfl

/-- `updatePower()` notifies exactly in STOP. -/
theorem HostState.updatePower_sent (op : Direction) (digit : Option (Fin 10)) (h : HostState) :
    (h.updatePower op digit).sent = if op = .stop then h.sent ++ [.suppressed] else h.sent := by
  unfold HostState.updatePower
  split
  · rfl
  · split <;> rfl

theorem HostState.pollButton_sent (p : HostParams) (h : HostState) :
    (h.pollButton p).sent =
      h.sent ++ (h.button.bind fun code => (toggleMode p code h.mode).2).toList := by
  unfold HostState.pollButton
  split <;> simp [*]

/-- A host action takes back no notification. -/
theorem HostState.act_sent {p : HostParams} {op : Direction} {a : HostAct} {h h' : HostState}
    {w : Option OpWord} (e : h.act p op a = some (h', w)) : h.sent <+: h'.sent := by
  have up : ∀ (d : Option (Fin 10)) (k : HostState), k.sent = h.sent →
      h.sent <+: (k.updatePower op d).sent := by
    intro d k hk
    rw [HostState.updatePower_sent, hk]
    split <;> simp
  cases a with
  | serial =>
    simp only [HostState.act, HostState.pollSerial] at e
    (repeat' split at e) <;> cases e <;> first | exact up _ _ rfl | exact List.prefix_refl _ | exact List.prefix_append _ _
  | mode =>
    cases e
    rw [HostState.pollButton_sent]
    exact List.prefix_append _ _
  | force =>
    simp only [HostState.act] at e
    split at e <;> cases e <;> exact List.prefix_refl _
  | regulate sample =>
    simp only [HostState.act, HostState.regulate] at e
    (repeat' split at e) <;> cases e <;> first | exact up _ _ rfl | exact List.prefix_refl _
  | wait => cases e; exact List.prefix_refl _

/-! ### The time base -/

@[simp] theorem strobes_none : strobes none = false := rfl
@[simp] theorem strobes_zero : strobes (some 0) = true := rfl
@[simp] theorem strobes_succ (k : Nat) : strobes (some (k + 1)) = false := rfl
@[simp] theorem nextTimeBase_none (p : HostParams) : nextTimeBase p none = none := rfl
@[simp] theorem nextTimeBase_zero (p : HostParams) :
    nextTimeBase p (some 0) = some (p.tickCycles - 1) := rfl
@[simp] theorem nextTimeBase_succ (p : HostParams) (k : Nat) :
    nextTimeBase p (some (k + 1)) = some k := rfl

@[simp] theorem Ports.strobed_none (p : Ports) : p.strobed none = p := by simp [Ports.strobed]
@[simp] theorem Ports.strobed_tick (k : Option Nat) (p : Ports) :
    (p.strobed k).tick = (p.tick || strobes k) := rfl
@[simp] theorem Ports.strobed_rst (k : Option Nat) (p : Ports) : (p.strobed k).rst = p.rst := rfl
@[simp] theorem Ports.strobed_opwValid (k : Option Nat) (p : Ports) : (p.strobed k).opwValid = p.opwValid := rfl
@[simp] theorem Ports.strobed_opw (k : Option Nat) (p : Ports) : (p.strobed k).opw = p.opw := rfl
@[simp] theorem Ports.strobed_powerIn (k : Option Nat) (p : Ports) : (p.strobed k).powerIn = p.powerIn := rfl
@[simp] theorem Ports.strobed_manual (k : Option Nat) (p : Ports) : (p.strobed k).manual = p.manual := rfl

@[simp] theorem nextCycle_ports (c : Config) (h : HostState) (k : Option Nat) (q : Ports) (b : Bool)
    (rest : List Line) : (nextCycle c h k q b rest).1 = q.strobed k := rfl
@[simp] theorem nextCycle_env (c : Config) (h : HostState) (k : Option Nat) (q : Ports) (b : Bool)
    (rest : List Line) : (nextCycle c h k q b rest).2 = ⟨rest, b, h, nextTimeBase c.host k⟩ := rfl

/-! ### What a script leaves -/

/-- The environment's choice of inputs takes back no notification. -/
theorem feed_sent (c : Config) (b : Block) (script : List Line) :
    ∀ (h : HostState) (k : Option Nat) (p : Ports), h.sent <+: (feed c b h k p script).2.host.sent := by
  induction script with
  | nil => intro h k p; exact List.prefix_refl _
  | cons x rest ih =>
    intro h k p
    cases x with
    | cycle q => exact List.prefix_refl _
    | op w => exact List.prefix_refl _
    | power n => exact ih _ _ _
    | manual m => exact ih _ _ _
    | ticks n =>
      cases n with
      | zero => exact ih _ _ _
      | succ n => exact List.prefix_refl _
    | idle n =>
      cases n with
      | zero => exact ih _ _ _
      | succ n => exact List.prefix_refl _
    | reset => exact List.prefix_refl _
    | boot => exact ih (h.reboot c.host) _ _
    | rxByte x => exact ih { h with serial := some x } _ _
    | button code => exact ih { h with button := some code } _ _
    | startTicks wait => exact ih _ _ _
    | awaitTicks n =>
      cases n with
      | zero => exact ih _ _ _
      | succ n => exact List.prefix_refl _
    | host a =>
      simp only [feed]
      split
      · exact List.prefix_refl _
      · split
        · exact List.prefix_refl _
        · exact HostState.act_sent ‹_›
        · split
          · exact (HostState.act_sent ‹_›).trans (ih _ _ _)
          · exact HostState.act_sent ‹_›

/-! ### The inputs the environment chooses -/

/-- A script of lawful lines gives lawful inputs in the next cycle, and what is left of it is lawful. -/
theorem feed_lawful (c : Config) (b : Block) (script : List Line) :
    ∀ (h : HostState) (k : Option Nat) (p : Ports), powerIllegal p.powerIn = false →
      (∀ l ∈ script, l.lawful = true) →
      (feed c b h k p script).1.lawful = true ∧
        ∀ l ∈ (feed c b h k p script).2.script, l.lawful = true := by
  induction script with
  | nil => intro h k p hp _; simp [feed, Ports.rest, Ports.lawful, hp]
  | cons x rest ih =>
    intro h k p hp hl
    have hx := hl x (by simp)
    have hr : ∀ l ∈ rest, l.lawful = true := fun l hm => hl l (by simp [hm])
    cases x with
    | cycle q => simp_all [feed, Line.lawful]
    | op w => simp_all [feed, Line.lawful, Ports.offer, Ports.rest, Ports.lawful]
    | power n => exact ih _ _ _ (by simpa [Line.lawful] using hx) hr
    | manual m => exact ih _ _ _ hp hr
    | ticks n =>
      cases n with
      | zero => exact ih _ _ _ hp hr
      | succ n => simp_all [feed, Line.lawful, Ports.ticking, Ports.rest, Ports.lawful]
    | idle n =>
      cases n with
      | zero => exact ih _ _ _ hp hr
      | succ n => simp_all [feed, Line.lawful, Ports.rest, Ports.lawful]
    | reset => simp_all [feed, Ports.resetting, Ports.rest, Ports.lawful]
    | boot => exact ih _ _ _ (HostState.levels_legal _) hr
    | rxByte x => exact ih _ _ _ hp hr
    | button code => exact ih _ _ _ hp hr
    | startTicks wait => exact ih _ _ _ hp hr
    | awaitTicks n =>
      cases n with
      | zero => exact ih _ _ _ hp hr
      | succ n => simp_all [feed, Line.lawful, Ports.rest, Ports.lawful]
    | host a =>
      simp only [feed]
      split
      · simp_all [Ports.rest, Ports.lawful]
      · split
        · simp_all [Ports.rest, Ports.lawful]
        · rename_i h' w e
          have hw := HostState.act_offers_legal e
          simp_all [Ports.rest, Ports.lawful, Ports.offer, HostState.levels,
            HostState.levels_legal]
        · rename_i h' e
          split
          · exact ih _ _ _ (by simp [HostState.levels, HostState.levels_legal]) hr
          · simp_all [Ports.rest, Ports.lawful, HostState.levels,
              HostState.levels_legal, Line.lawful]

end Sys2Proof.Machine
end

