-- ==== Sys2Proof/Laws/PerInstr.lean ====
section
/-! SUPPORT. Facts about every operation as syntax, one lemma per constructor. Family `KindBit`: the
kind bit `K` of an operation's word is 1 exactly when the operation is internal, which "keeps a
serial byte from being read as an internal opcode" (30_encoding.md R70). -/

namespace Sys2Proof.Laws

/-- Bit 8 of the word is the kind of the operation. -/
def KindBit.Statement (i : Instr) : Prop := kindBit (encode i) = i.isInternal

theorem kindBit_assembleWord (k : Bool) (b : Byte) : kindBit (assembleWord k b) = k := by
  cases k <;> simp [kindBit, assembleWord]

theorem KindBit.f : KindBit.Statement .f := rfl
theorem KindBit.r : KindBit.Statement .r := rfl
theorem KindBit.s : KindBit.Statement .s := rfl
theorem KindBit.nop : KindBit.Statement .nop := rfl
theorem KindBit.drive : KindBit.Statement .drive := rfl
theorem KindBit.ffwd : KindBit.Statement .ffwd := rfl
theorem KindBit.byte (b : Byte) : KindBit.Statement (.byte b) := kindBit_assembleWord false b
theorem KindBit.word (b : Byte) : KindBit.Statement (.word b) := kindBit_assembleWord true b

end Sys2Proof.Laws
end

