-- ==== Sys2Proof/Laws/Step.lean ====
section
/-! SUPPORT. What one step can do, said once: the frame of `exec`, the four cases of a cycle, what
the environment's move leaves alone, and how a step consumes an input sequence. -/

namespace Sys2Proof.Machine

/-- The command for a direction: `F` for FORWARD, `R` for REVERSE. -/
def commandFor : Turn → Instr
  | .forward => .f
  | .reverse => .r

/-- Everything an operation can do, one case per cell of the transition table (R155). -/
inductive ExecCase (i : Instr) (s : State) : State → Prop where
  /-- F or R in STOP. -/
  | enter (d : Turn) (hi : i = commandFor d) (ho : s.block.op = .stop) : ExecCase i s (s.enter d)
  /-- F in FORWARD, R in REVERSE. -/
  | already (d : Turn) (hi : i = commandFor d) (ho : s.block.op = d.toDirection) :
      ExecCase i s s.noop
  /-- F in REVERSE, R in FORWARD. -/
  | reversal (d : Turn) (hi : i = commandFor d) (ho : s.block.op = d.opposite.toDirection) :
      ExecCase i s (s.beginReversal d)
  /-- S in STOP, in MANUAL. -/
  | stopped (hi : i = .s) (hm : s.inp.manual = true) (ho : s.block.op = .stop) : ExecCase i s s.noop
  /-- S outside STOP, in MANUAL. -/
  | stop (hi : i = .s) (hm : s.inp.manual = true) (ho : s.block.op ≠ .stop) :
      ExecCase i s s.stopMotor
  /-- S outside MANUAL. -/
  | reject (hi : i = .s) (hm : s.inp.manual = false) : ExecCase i s (s.emit .reject)
  /-- FFWD in STOP. -/
  | forced (hi : i = .ffwd) (ho : s.block.op = .stop) :
      ExecCase i s ((s.setOp .forward).emit .forcedFwd)
  /-- DRIVE. -/
  | drive (hi : i = .drive) : ExecCase i s (s.drive s.block.op).quiet
  /-- FFWD outside STOP, NOP, and an ignored byte. -/
  | quiet (hi : (i = .ffwd ∧ s.block.op ≠ .stop) ∨ i = .nop ∨ ∃ b, i = .byte b) :
      ExecCase i s s.quiet
  /-- An illegal word. -/
  | illegal (b : Byte) (hi : i = .word b) : ExecCase i s (s.setErr .illegalWord).quiet

/-- An operation that answers a next state is one of those cases. -/
theorem exec_cases {i : Instr} {s t : State} (h : exec i s = .next t) : ExecCase i s t := by
  cases i with
  | f =>
    simp only [exec, execF] at h
    split at h <;> cases h
    · exact .enter .forward rfl ‹_›
    · exact .already .forward rfl ‹_›
    · exact .reversal .forward rfl ‹_›
  | r =>
    simp only [exec, execR] at h
    split at h <;> cases h
    · exact .enter .reverse rfl ‹_›
    · exact .reversal .reverse rfl ‹_›
    · exact .already .reverse rfl ‹_›
  | s =>
    cases hm : s.inp.manual with
    | false =>
      simp only [exec, execS, hm, Bool.false_eq_true, if_false] at h
      cases h
      exact .reject rfl hm
    | true =>
      simp only [exec, execS, hm, if_true] at h
      split at h <;> cases h
      · exact .stopped rfl hm ‹_›
      · exact .stop rfl hm (by simp [*])
      · exact .stop rfl hm (by simp [*])
  | ffwd =>
    simp only [exec, execFfwd] at h
    split at h <;> cases h
    · exact .forced rfl ‹_›
    · exact .quiet (.inl ⟨rfl, by simp [*]⟩)
    · exact .quiet (.inl ⟨rfl, by simp [*]⟩)
  | nop => cases h; exact .quiet (.inr (.inl rfl))
  | drive => cases h; exact .drive rfl
  | byte b => cases h; exact .quiet (.inr (.inr ⟨b, rfl⟩))
  | word b => cases h; exact .illegal b rfl

/-- An operation leaves the parameters, the ports and the environment alone. -/
theorem exec_surroundings {i : Instr} {s t : State} (h : exec i s = .next t) :
    SameSurroundings s t := by
  cases exec_cases h with
  | enter d => exact s.enter_surroundings d
  | already => exact s.noop_surroundings
  | stopped => exact s.noop_surroundings
  | _ => simp [SameSurroundings, State.beginReversal, State.stopMotor]

/-- The four cases of a cycle, in R130's order of precedence. -/
theorem State.cycle_cases (s : State) :
    (s.inp.rst = true ∧ s.cycle = .next s.resetBlock) ∨
    (s.inp.rst = false ∧ s.block.ph = .settle ∧ s.cycle = .next s.settleStep) ∨
    (s.inp.rst = false ∧ s.block.ph = .idle ∧ s.inp.opwValid = true ∧
      s.cycle = exec (decode s.inp.opw) s) ∨
    (s.inp.rst = false ∧ s.block.ph = .idle ∧ s.inp.opwValid = false ∧
      s.cycle = .next s.quiet) := by
  cases hr : s.inp.rst with
  | true => exact .inl ⟨rfl, by simp [State.cycle, hr]⟩
  | false =>
    cases hp : s.block.ph with
    | settle => exact .inr (.inl ⟨rfl, rfl, by simp [State.cycle, hr, hp]⟩)
    | idle =>
      cases hv : s.inp.opwValid with
      | true => exact .inr (.inr (.inl ⟨rfl, rfl, rfl, by simp [State.cycle, hr, hp, hv]⟩))
      | false => exact .inr (.inr (.inr ⟨rfl, rfl, rfl, by simp [State.cycle, hr, hp, hv]⟩))

/-- A cycle leaves the parameters, the ports and the environment alone. -/
theorem State.cycle_surroundings {s t : State} (h : s.cycle = .next t) : SameSurroundings s t := by
  obtain ⟨_, k⟩ | ⟨_, _, k⟩ | ⟨_, _, _, k⟩ | ⟨_, _, _, k⟩ := s.cycle_cases <;> rw [k] at h
  · cases h; simp [SameSurroundings]
  · cases h; exact s.settleStep_surroundings
  · exact exec_surroundings h
  · cases h; simp [SameSurroundings]

/-! ### The environment's move leaves the block alone -/

@[simp] theorem State.advance_block (a : Bool) (s : State) : (s.advance a).block = s.block := by
  simp only [State.advance]; split <;> rfl
@[simp] theorem State.advance_cfg (a : Bool) (s : State) : (s.advance a).cfg = s.cfg := by
  simp only [State.advance]; split <;> rfl
@[simp] theorem State.advance_fault (a : Bool) (s : State) : (s.advance a).fault = s.fault := by
  simp only [State.advance]; split <;> rfl

/-- A step is a cycle and then the environment's move. -/
theorem step_inv {s t : State} (h : step s = .next t) :
    ∃ u, s.cycle = .next u ∧ t = u.advance s.accepted := by
  simp only [step, State.clock] at h
  split at h
  · exact ⟨_, ‹_›, by cases h; rfl⟩
  · cases h
  · cases h

theorem step_of_cycle {s u : State} (h : s.cycle = .next u) :
    step s = .next (u.advance s.accepted) := by
  simp [step, State.clock, h]

/-- Everything a cycle can do, and the state it leaves before the environment moves. -/
inductive CycleCase (s : State) : State → Prop where
  /-- Reset wins over everything. -/
  | reset (hr : s.inp.rst = true) : CycleCase s s.resetBlock
  /-- The settle phase ends. -/
  | complete (hr : s.inp.rst = false) (hp : s.block.ph = .settle) (hc : s.block.cnt = 0#16) :
      CycleCase s s.completeSettle
  /-- The settle phase counts a tick. -/
  | count (hr : s.inp.rst = false) (hp : s.block.ph = .settle) (hc : s.block.cnt ≠ 0#16)
      (ht : s.inp.tick = true) :
      CycleCase s (s.setSequencer s.block.ph s.block.tgt (s.block.cnt - 1#16)).quiet
  /-- The settle phase waits. -/
  | hold (hr : s.inp.rst = false) (hp : s.block.ph = .settle) (hc : s.block.cnt ≠ 0#16)
      (ht : s.inp.tick = false) : CycleCase s s.quiet
  /-- A word is accepted. -/
  | run {u : State} (hr : s.inp.rst = false) (hp : s.block.ph = .idle)
      (hv : s.inp.opwValid = true) (he : exec (decode s.inp.opw) s = .next u)
      (hx : ExecCase (decode s.inp.opw) s u) : CycleCase s u
  /-- Nothing is offered. -/
  | idle (hr : s.inp.rst = false) (hp : s.block.ph = .idle) (hv : s.inp.opwValid = false) :
      CycleCase s s.quiet

/-- A step that answers a next state is one of those cases, and then the environment's move. -/
theorem step_cases {s t : State} (h : step s = .next t) :
    ∃ u, CycleCase s u ∧ SameSurroundings s u ∧ t = u.advance s.accepted := by
  obtain ⟨u, hu, rfl⟩ := step_inv h
  refine ⟨u, ?_, State.cycle_surroundings hu, rfl⟩
  obtain ⟨hr, k⟩ | ⟨hr, hp, k⟩ | ⟨hr, hp, hv, k⟩ | ⟨hr, hp, hv, k⟩ := s.cycle_cases <;>
    rw [k] at hu
  · cases hu; exact .reset hr
  · cases hu
    obtain ⟨hc, e⟩ | ⟨hc, ht, e⟩ | ⟨hc, ht, e⟩ := s.settleStep_cases <;> rw [e]
    · exact .complete hr hp hc
    · exact .count hr hp hc ht
    · exact .hold hr hp hc ht
  · exact .run hr hp hv hu (exec_cases hu)
  · cases hu; exact .idle hr hp hv

/-! ### Input sequences -/

@[simp] theorem State.withInputs_block (ps : List Ports) (s : State) :
    (s.withInputs ps).block = s.block := by cases ps <;> rfl
@[simp] theorem State.withInputs_cfg (ps : List Ports) (s : State) :
    (s.withInputs ps).cfg = s.cfg := by cases ps <;> rfl
@[simp] theorem State.withInputs_fault (ps : List Ports) (s : State) :
    (s.withInputs ps).fault = s.fault := by cases ps <;> rfl
@[simp] theorem State.withInputs_inp (p : Ports) (ps : List Ports) (s : State) :
    (s.withInputs (p :: ps)).inp = p := rfl
@[simp] theorem State.withInputs_hold (ps : List Ports) (s : State) :
    (s.withInputs ps).env.hold = false := by cases ps <;> rfl

/-- The environment's move in an input sequence takes the next inputs. -/
theorem State.advance_withInputs {s t : State} {p : Ports} {ps : List Ports} (a : Bool)
    (h : SameSurroundings (s.withInputs (p :: ps)) t) : t.advance a = t.withInputs ps := by
  obtain ⟨_, hi, he⟩ := h
  cases ps <;>
    simp [State.advance, State.withInputs, he, hi, feed, nextCycle, nextTimeBase, Ports.strobed, strobes,
      Ports.rest]

/-- A step in an input sequence: the cycle under the first inputs, then the rest of the sequence. -/
theorem step_withInputs {s u : State} {p : Ports} {ps : List Ports}
    (h : (s.withInputs (p :: ps)).cycle = .next u) :
    step (s.withInputs (p :: ps)) = .next (u.withInputs ps) := by
  rw [step_of_cycle h, State.advance_withInputs _ (State.cycle_surroundings h)]

@[simp] theorem run_zero (s : State) : run 0 s = .next s := rfl

/-- A run of `k + 1` cycles is a step and a run of `k` cycles. -/
theorem run_succ {s t : State} (k : Nat) (h : step s = .next t) : run (k + 1) s = run k t := by
  have e : Host.Core.step core s = .next t := h
  simp only [run, Host.Core.run, e]
  rfl

end Sys2Proof.Machine
end

