-- ==== Sys2Proof/Tests/Slice0.lean ====
section
/-! SUPPORT. The model's own tests: smoke tests of well-formedness and decoding, single steps against
spec/95_test_vectors.md, and a witness for the hypotheses of every statement that has some. Expected
values are the spec's words and vectors. -/

namespace Sys2Proof.Machine.Tests

open Sys2Proof Sys2Proof.Machine

/-! ### Well-formedness refuses what it should -/

theorem test_wf_refuses_command_bytes :
    (Instr.byte 0x46#8).wf = false ∧ (Instr.byte 0x52#8).wf = false ∧
      (Instr.byte 0x53#8).wf = false := by decide

theorem test_wf_refuses_assigned_opcodes :
    (Instr.word 0x00#8).wf = false ∧ (Instr.word 0x01#8).wf = false ∧
      (Instr.word 0x02#8).wf = false := by decide

theorem test_wf_accepts : (Instr.byte 0x35#8).wf = true ∧ (Instr.word 0x03#8).wf = true := by decide

/-- 95_test_vectors.md, section 2: "A table with T(3) < T(2) fails P_duty and must be refused". -/
theorem test_pduty_refuses :
    DutyTable.ofValues? #v[0#7, 25#7, 40#7, 30#7, 50#7, 60#7, 70#7, 80#7, 90#7, 100#7] = none := by
  decide

/-- The source's §8 values 0, 35, 75, 100 at 0, 1, 5, 9 fit `P_duty` as well (90_conflicts.md C1). -/
def section8Values : Vector Percent 10 :=
  #v[0#7, 35#7, 45#7, 55#7, 65#7, 75#7, 85#7, 95#7, 100#7, 100#7]

theorem test_pduty_admits_section8_values :
    (DutyTable.ofValues? section8Values).isSome = true := by decide

/-! ### Decoding, from the words of 30_encoding.md R71 to R73 and the opcode table -/

theorem test_decode_f : decode 0b001000110#9 = .f := by decide
theorem test_decode_r : decode 0b001010010#9 = .r := by decide
theorem test_decode_s : decode 0b001010011#9 = .s := by decide
theorem test_decode_nop : decode 0b100000000#9 = .nop := by decide
theorem test_decode_drive : decode 0b100000001#9 = .drive := by decide
theorem test_decode_ffwd : decode 0b100000010#9 = .ffwd := by decide
theorem test_decode_byte : decode 0b000110101#9 = .byte 0x35#8 := by decide
theorem test_decode_word : decode 0b111111111#9 = .word 0xFF#8 := by decide
theorem test_decode_rejects_ten_bits : decodeNumber 0x200 = .error .widerThanNineBits := rfl
theorem test_decode_table_word : decodeTableWord 16 0x101 = some .drive := by decide

/-! ### One step, against 95_test_vectors.md sections 2 and 3 -/

/-- An IDLE state of section 3 with a word offered: direction, duties, power, mode, word. -/
def idleState (op : Direction) (duties : Percent × Percent) (p : Power) (m : Bool) (w : OpWord) :
    State :=
  { State.reset with
    block := { Block.reset with op := op, dutyF := duties.1, dutyR := duties.2 }
    inp := { rst := false, opwValid := true, opw := w, powerIn := p, manual := m, tick := false } }

/-- A settle phase with a target, a count, a power level and a tick. -/
def settleState (d : Turn) (cnt : Count) (p : Power) (tick : Bool) : State :=
  { State.reset with
    block := { Block.reset with ph := .settle, tgt := some d, cnt := cnt }
    inp := { rst := false, opwValid := true, opw := 0x053#9, powerIn := p, manual := true
             tick := tick } }

/-- What the vectors tabulate. -/
structure Shown where
  sequencer : Direction × Phase × Option Turn × Nat
  duty : Nat × Nat
  errors : Bool × Bool
  event : Bool × Nat
  deriving DecidableEq, Repr

/-- (OP, PH, TGT, CNT), (DUTY_F, DUTY_R), (ERR_PWR, ERR_ILL) and the event of a next state. -/
def shown (o : Host.Outcome State Fault Refusal) : Option Shown :=
  match o with
  | .next t =>
    let b := t.block
    some ⟨(b.op, b.ph, b.tgt, b.cnt.toNat), (b.dutyF.toNat, b.dutyR.toNat), (b.errPwr, b.errIll),
      (b.evtV, b.evtCode.toNat)⟩
  | .fault _ => none
  | .refused _ => none

/-- V1. -/
theorem test_f_from_stop :
    shown (step (idleState .stop (0, 0) 7 true 0x046)) =
      some ⟨(.forward, .idle, none, 0), (80, 0), (false, false), (true, 1)⟩ := by decide
/-- V4. -/
theorem test_f_from_reverse :
    shown (step (idleState .reverse (0, 60) 7 false 0x046)) =
      some ⟨(.stop, .settle, some .forward, 500), (0, 0), (false, false), (true, 4)⟩ := by decide
/-- V5. -/
theorem test_r_from_stop :
    shown (step (idleState .stop (0, 0) 7 true 0x052)) =
      some ⟨(.reverse, .idle, none, 0), (0, 80), (false, false), (true, 2)⟩ := by decide
/-- V7. -/
theorem test_r_from_reverse :
    shown (step (idleState .reverse (0, 60) 7 false 0x052)) =
      some ⟨(.reverse, .idle, none, 0), (0, 60), (false, false), (true, 6)⟩ := by decide
/-- V9. -/
theorem test_s_in_manual :
    shown (step (idleState .reverse (0, 60) 7 true 0x053)) =
      some ⟨(.stop, .idle, none, 0), (0, 0), (false, false), (true, 3)⟩ := by decide
/-- V12. -/
theorem test_s_rejected_in_stop :
    shown (step (idleState .stop (0, 0) 7 false 0x053)) =
      some ⟨(.stop, .idle, none, 0), (0, 0), (false, false), (true, 7)⟩ := by decide
/-- V13. -/
theorem test_ffwd_from_stop :
    shown (step (idleState .stop (0, 0) 7 false 0x102)) =
      some ⟨(.forward, .idle, none, 0), (0, 0), (false, false), (true, 5)⟩ := by decide
/-- V14. -/
theorem test_ffwd_from_reverse :
    shown (step (idleState .reverse (0, 60) 7 false 0x102)) =
      some ⟨(.reverse, .idle, none, 0), (0, 60), (false, false), (false, 0)⟩ := by decide
/-- V16. -/
theorem test_drive_in_reverse :
    shown (step (idleState .reverse (0, 60) 7 true 0x101)) =
      some ⟨(.reverse, .idle, none, 0), (0, 80), (false, false), (false, 0)⟩ := by decide
/-- The remark under the vectors: with `power_in = 12`, V17 gives no flag. -/
theorem test_drive_in_stop_does_not_check_power :
    shown (step (idleState .stop (0, 0) 12 true 0x101)) =
      some ⟨(.stop, .idle, none, 0), (0, 0), (false, false), (false, 0)⟩ := by decide
/-- V18. -/
theorem test_nop :
    shown (step (idleState .forward (60, 0) 7 true 0x100)) =
      some ⟨(.forward, .idle, none, 0), (60, 0), (false, false), (false, 0)⟩ := by decide
/-- V23: the byte 0x01 is ignored, and is not DRIVE. -/
theorem test_byte_is_not_drive :
    shown (step (idleState .forward (60, 0) 7 true 0x001)) =
      some ⟨(.forward, .idle, none, 0), (60, 0), (false, false), (false, 0)⟩ := by decide
/-- V21. -/
theorem test_word_sets_only_its_flag :
    shown (step (idleState .forward (60, 0) 7 true 0x103)) =
      some ⟨(.forward, .idle, none, 0), (60, 0), (false, true), (false, 0)⟩ := by decide
/-- Section 3.1: a `power_in` of 13 in the completion cycle gives (0,100) and ERR_PWR = 1. -/
theorem test_settle_completion_out_of_range :
    shown (step (settleState .reverse 0 13 true)) =
      some ⟨(.reverse, .idle, none, 0), (0, 100), (true, false), (true, 2)⟩ := by decide
/-- P1, c3: a tick counts CNT 2 down to 1; the offered S waits. -/
theorem test_settle_counts :
    shown (step (settleState .reverse 2 9 true)) =
      some ⟨(.stop, .settle, some .reverse, 1), (0, 0), (false, false), (false, 0)⟩ := by decide
/-- Section 3.1: the status words of the two settle phases. -/
theorem test_settle_status :
    (settleState .reverse 2 9 true).outputs.status = 0x0014#16 ∧
      (settleState .forward 2 9 true).outputs.status = 0x000C#16 := by decide
/-- R141's example: `WORD 0x1FF` from reset gives `status = 0x0040`; placed with `withFetchWord`. -/
theorem test_placed_word_runs_after_reset :
    (match step (State.reset.withFetchWord 9 0x1FF) with
      | .next t => some (t.outputs.status, t.fault)
      | .fault _ => none
      | .refused _ => none) = some (0x0040#16, some .illegalWord) := by decide
/-- R80: P1 begins with its RESET cycle, at the program's levels. -/
theorem test_load_first_cycle :
    (State.reset.load (assemble defaultConfig [.power 9, .manual true, .reset, .f])).inp =
      { rst := true, opwValid := false, opw := 0, powerIn := 9, manual := true, tick := false } := by
  decide
/-- R234: `rst` is held first; in its second cycle the boot levels, Power 9 and MANUAL, are driven, the
inbox is empty and the time base strobes. -/
theorem test_host_boot :
    (match step (State.reset.load ([.rxByte 0x46, .power 3] ++ hostBoot 0)) with
      | .next t => some (t.env.host, t.inp)
      | .fault _ => none
      | .refused _ => none) =
      some (HostState.boot defaultHostParams,
        { rst := true, opwValid := false, opw := 0, powerIn := 9, manual := true, tick := true }) := by
  decide
/-- R174, R234: with a strobe in every second cycle and the first in the second, of 3 ticks to wait for
none has come in the first cycle and one in the second. -/
theorem test_host_awaits_ticks :
    let c := { defaultConfig with host := { defaultHostParams with tickCycles := 2 } }
    let s := { State.reset with cfg := c }.loadHost [.startTicks 1, .awaitTicks 3]
    (s.inp.tick, s.env.script) = (false, [.awaitTicks 3]) ∧
      ((s.advance false).inp.tick, (s.advance false).env.script) = (true, [.awaitTicks 2]) := by
  decide
/-- R175, R177: one loop iteration that takes a digit and trigger 1 in LIGHT_CONTROL makes both
notifications before its next cycle. -/
theorem test_iteration_keeps_notifications :
    let h := { HostState.boot defaultHostParams with
      mode := .lightControl, serial := some 0x35, button := some 1 }
    ({ State.reset with env := ⟨[], false, h, none⟩ }.loadHost (hostIteration none)).env.host.sent =
      [.digitRejected, .modeIs .manual] := by decide
/-- 95_test_vectors.md 1.4: a sensor reading of 3840 gives Power 9 after the clamp. -/
theorem test_light_power_is_clamped :
    (({ HostState.boot defaultHostParams with mode := .lightControl, sensor := 3840 }).updatePower
      .forward none).power = 9 := by decide

/-! ### Witnesses: a concrete state for the hypotheses of each statement -/

/-- FORWARD, with F offered at power 9, is a state that meets the invariants. -/
def forwardState : State := idleState .forward (60, 0) 7 true 0x046

/-- A state in which reset is asserted. -/
def resetState : State := { forwardState with inp := { forwardState.inp with rst := true } }

/-- A state in which nothing is offered. -/
def unofferedState : State :=
  { forwardState with inp := { forwardState.inp with opwValid := false } }

theorem inv_idleState {op : Direction} {df dr p : BitVec _} {m : Bool} {w : OpWord}
    (h4 : op = .stop → df = 0#7 ∧ dr = 0#7)
    (h5 : (op = .forward → dr = 0#7) ∧ (op = .reverse → df = 0#7))
    (h6 : dutyAllowed defaultConfig df ∧ dutyAllowed defaultConfig dr) :
    BlockInv (idleState op (df, dr) p m w).cfg (idleState op (df, dr) p m w).block :=
  ⟨nofun, fun _ => rfl, h4, h5, h6, (by decide : 0#16 ≤ 500#16)⟩

theorem dutyAllowed_zero (c : Config) : dutyAllowed c 0#7 := .inl rfl
theorem dutyAllowed_sixty : dutyAllowed defaultConfig 60#7 := .inr (.inr (by simp [defaultConfig, dutySpec41Table]))

theorem inv_forward (p : Power) (m : Bool) (w : OpWord) :
    BlockInv (idleState .forward (60, 0) p m w).cfg (idleState .forward (60, 0) p m w).block :=
  inv_idleState nofun ⟨fun _ => rfl, nofun⟩ ⟨dutyAllowed_sixty, dutyAllowed_zero _⟩

theorem inv_reverse (p : Power) (m : Bool) (w : OpWord) :
    BlockInv (idleState .reverse (0, 60) p m w).cfg (idleState .reverse (0, 60) p m w).block :=
  inv_idleState nofun ⟨nofun, fun _ => rfl⟩ ⟨dutyAllowed_zero _, dutyAllowed_sixty⟩

theorem inv_stop (p : Power) (m : Bool) (w : OpWord) :
    BlockInv (idleState .stop (0, 0) p m w).cfg (idleState .stop (0, 0) p m w).block :=
  inv_idleState (fun _ => ⟨rfl, rfl⟩) ⟨nofun, nofun⟩ ⟨dutyAllowed_zero _, dutyAllowed_zero _⟩

theorem inv_settle (d : Turn) (cnt : Count) (p : Power) (k : Bool) (h : cnt ≤ 500#16) :
    BlockInv (settleState d cnt p k).cfg (settleState d cnt p k).block :=
  ⟨fun _ => ⟨rfl, nofun, rfl, rfl⟩, nofun, fun _ => ⟨rfl, rfl⟩, ⟨nofun, nofun⟩,
    ⟨dutyAllowed_zero _, dutyAllowed_zero _⟩, h⟩

/-- A step whose outcome is a next state with property `P`. -/
def stepsTo (s : State) (P : State → Bool) : Bool :=
  match step s with
  | .next t => P t
  | .fault _ => false
  | .refused _ => false

theorem exists_of_stepsTo {s : State} {P : State → Bool} (h : stepsTo s P = true) :
    ∃ t, step s = .next t ∧ P t = true := by
  unfold stepsTo at h
  split at h
  · exact ⟨_, ‹_›, h⟩
  · cases h
  · cases h

/-- DecodeOfEncodeIsIdentity: both fallback classes, at the edges of their ranges. -/
theorem witness_wf :
    (Instr.byte 0x00#8).wf = true ∧ (Instr.byte 0xFF#8).wf = true ∧ (Instr.byte 0x45#8).wf = true ∧
      (Instr.word 0x03#8).wf = true ∧ (Instr.word 0xFF#8).wf = true := by decide

/-- ResetCycleResult. -/
theorem witness_reset_cycle : resetState.inp.rst = true := rfl

/-- OnlyAdmittedTablesExist: values that satisfy `P_duty`, at its edges 0 and 100, and values that pass
100 by one or start above 0. -/
theorem witness_tables :
    PDuty section8Values ∧ PDuty #v[0#7, 0#7, 0#7, 0#7, 0#7, 0#7, 0#7, 0#7, 0#7, 100#7] ∧
    ¬ PDuty #v[0#7, 25#7, 30#7, 40#7, 50#7, 60#7, 70#7, 80#7, 101#7, 101#7] ∧
    ¬ PDuty #v[1#7, 25#7, 30#7, 40#7, 50#7, 60#7, 70#7, 80#7, 90#7, 100#7] := by decide

/-- ForwardCommandResult and ReverseCommandResult: each clause's state, and the power at both sides
of the range's end. -/
theorem witness_direction_commands :
    (idleState .stop (0, 0) 9 true 0x046).block.op = .stop ∧
    (idleState .stop (0, 0) 10 true 0x052).block.op = .stop ∧ 9 < (10#4).toNat ∧
    ¬ 9 < (9#4).toNat ∧ (idleState .forward (60, 0) 7 true 0x046).block.op = .forward ∧
    (idleState .reverse (0, 60) 7 true 0x052).block.op = .reverse ∧
    (settleState .forward 0 9 false).inp.rst = false ∧
    (settleState .forward 0 9 false).block.ph = .settle ∧
    (settleState .forward 0 9 false).block.tgt = some .forward ∧
    (settleState .reverse 0 9 false).block.tgt = some .reverse ∧
    (settleState .forward 0 9 false).block.cnt = 0#16 := by decide

/-- StopCommandResult: both modes, and STOP and not STOP. -/
theorem witness_stop_command :
    (idleState .forward (60, 0) 7 false 0x053).inp.manual = false ∧
    (idleState .stop (0, 0) 7 true 0x053).inp.manual = true ∧
    (idleState .stop (0, 0) 7 true 0x053).block.op = .stop ∧
    (idleState .reverse (0, 60) 7 true 0x053).block.op ≠ .stop := by decide

/-- ForcedForwardResult and DriveResult: STOP and not STOP, power at both sides of its end. -/
theorem witness_forced_forward_and_drive :
    (idleState .stop (0, 0) 9 true 0x102).block.op = .stop ∧
    (idleState .reverse (0, 60) 10 true 0x101).block.op ≠ .stop ∧
    9 < (idleState .reverse (0, 60) 10 true 0x101).inp.powerIn.toNat := by decide

/-- IgnoredByteResult and IllegalWordResult, at the edges of the ranges. -/
theorem witness_fallback_bytes :
    (0x47#8 ≠ 0x46#8 ∧ 0x47#8 ≠ 0x52#8 ∧ 0x47#8 ≠ 0x53#8) ∧ 0x03#8 ≤ 0x03#8 ∧ 0x03#8 ≤ 0xFF#8 := by
  decide

/-- SettleStepResult: its three clauses, at counts 0, 1 and the largest. -/
theorem witness_settle_step :
    (settleState .forward 0 9 true).block.cnt = 0#16 ∧
    (settleState .forward 1 9 true).block.cnt ≠ 0#16 ∧
    (settleState .forward 1 9 true).inp.tick = true ∧
    (settleState .reverse 0xFFFF 9 false).block.cnt ≠ 0#16 ∧
    (settleState .reverse 0xFFFF 9 false).inp.tick = false ∧
    (settleState .reverse 1 9 false).inp.rst = false := by decide

/-- IdleCycleResult. -/
theorem witness_idle_cycle :
    unofferedState.inp.rst = false ∧ unofferedState.block.ph = .idle ∧
      unofferedState.inp.opwValid = false := by decide

/-- StepRunsAcceptedWord, SettleEnteredOnlyByReversal's and the "who writes what" conclusions. -/
theorem witness_accepted : forwardState.accepted = true := by decide

/-- PlacedWordRunsNext: the first and the last word. -/
theorem witness_placed_word :
    decodeTableWord 9 0 = some (.byte 0x00#8) ∧ decodeTableWord 9 0x1FF = some (.word 0xFF#8) := by
  decide

/-- ParametersNeverWritten, EventAlwaysLegal, AtMostOneNewErrorPerCycle: a step. -/
theorem witness_step : ∃ t, step forwardState = .next t :=
  have ⟨t, h, _⟩ := exists_of_stepsTo (s := forwardState) (P := fun _ => true) (by decide)
  ⟨t, h⟩

/-- OnlyCommandsChangeDirection, OnlyDrivesWriteDuty and DirectionChangeIsNotified: F from STOP. -/
theorem witness_direction_and_duty_change :
    ∃ t, step (idleState .stop (0, 0) 7 true 0x046) = .next t ∧
      (decide (t.block.op ≠ .stop ∧ t.block.dutyF ≠ 0#7)) = true :=
  exists_of_stepsTo (P := fun t => decide (t.block.op ≠ .stop ∧ t.block.dutyF ≠ 0#7)) (by decide)

/-- OnlyDriveReappliesPower: DRIVE in FORWARD at a new power. -/
theorem witness_reapplied_power :
    BlockInv (idleState .forward (60, 0) 7 true 0x101).cfg
      (idleState .forward (60, 0) 7 true 0x101).block ∧
    ∃ t, step (idleState .forward (60, 0) 7 true 0x101) = .next t ∧
      (decide (t.block.op = .forward ∧ t.block.dutyF ≠ 60#7)) = true :=
  ⟨inv_forward _ _ _, exists_of_stepsTo
    (P := fun t => decide (t.block.op = .forward ∧ t.block.dutyF ≠ 60#7)) (by decide)⟩

/-- ReversalPassesThroughStop, StepKeepsBlockInvariant and DutyStaysAPercent: R in FORWARD. -/
theorem witness_reversal_entry :
    BlockInv (idleState .forward (60, 0) 7 true 0x052).cfg
      (idleState .forward (60, 0) 7 true 0x052).block ∧
    ∃ t, step (idleState .forward (60, 0) 7 true 0x052) = .next t ∧
      (decide (t.block.ph = .settle)) = true :=
  ⟨inv_forward _ _ _, exists_of_stepsTo (P := fun t => decide (t.block.ph = .settle)) (by decide)⟩

/-- SettleEnteredOnlyByReversal: F in REVERSE. -/
theorem witness_settle_entered :
    (idleState .reverse (0, 60) 7 true 0x046).block.ph = .idle ∧
    ∃ t, step (idleState .reverse (0, 60) 7 true 0x046) = .next t ∧
      (decide (t.block.ph = .settle)) = true :=
  ⟨rfl, exists_of_stepsTo (P := fun t => decide (t.block.ph = .settle)) (by decide)⟩

/-- PowerErrorExactlyWhenUsed: a completion at power 10, the least that is out of range. -/
theorem witness_power_used :
    (settleState .reverse 0 10 true).inp.rst = false ∧
      powerUsed (settleState .reverse 0 10 true) = true ∧
      9 < (settleState .reverse 0 10 true).inp.powerIn.toNat ∧
      stepsTo (settleState .reverse 0 10 true) (fun t => t.block.errPwr) = true := by decide

/-- IllegalErrorExactlyWhenAccepted: the words on both sides of the range's start. -/
theorem witness_illegal_accepted :
    (idleState .forward (60, 0) 7 true 0x103).accepted = true ∧
      (idleState .forward (60, 0) 7 true 0x102).accepted = true ∧
      0x103 ≤ (0x103#9).toNat ∧ ¬ 0x103 ≤ (0x102#9).toNat ∧
      (idleState .forward (60, 0) 7 true 0x103).inp.rst = false ∧
      stepsTo (idleState .forward (60, 0) 7 true 0x103) (fun t => t.block.errIll) = true ∧
      stepsTo (idleState .forward (60, 0) 7 true 0x102) (fun t => !t.block.errIll) = true := by
  decide

/-- A state whose flag and record are set. -/
def faultedState : State :=
  { forwardState with
    block := { forwardState.block with errIll := true }
    fault := some .illegalWord }

/-- StepKeepsErrorsRecorded and FaultRecordKeepsTheFirstError. -/
theorem witness_recorded :
    ErrorsRecorded faultedState ∧ faultedState.block.errIll = true ∧
      faultedState.fault = some .illegalWord ∧ ∃ t, step faultedState = .next t :=
  have ⟨t, h, _⟩ := exists_of_stepsTo (s := faultedState) (P := fun _ => true) (by decide)
  ⟨fun _ => nofun, rfl, rfl, t, h⟩

/-- HandshakeIgnoresUnacceptedWord: reset, the settle phase, and nothing offered. -/
theorem witness_unaccepted :
    resetState.accepted = false ∧ (settleState .forward 1 9 true).accepted = false ∧
      unofferedState.accepted = false := by decide

/-- OnlyStopReadsManual and OnlyDrivesReadPower: operations and states the hypotheses admit. -/
theorem witness_unread_levels :
    Instr.f ≠ .s ∧ Instr.word 0xFF#8 ≠ .s ∧
    (Instr.f = .f ∨ Instr.f = .r → forwardState.block.op ≠ .stop) ∧
    (Instr.drive = .drive → (idleState .stop (0, 0) 9 true 0x101).block.op = .stop) ∧
    forwardState.accepted = true ∧ decode forwardState.inp.opw ≠ .s ∧
    powerUsed forwardState = false ∧ powerUsed resetState = false ∧
    powerUsed (settleState .forward 1 9 true) = false := by decide

/-- TickIgnoredInIdle. -/
theorem witness_idle_phase : forwardState.block.ph = .idle := rfl

/-- The state each event code needs: the three directions, and a settle phase about to end. -/
theorem witness_event_states :
    BlockInv (idleState .stop (0, 0) 7 true 0x102).cfg (idleState .stop (0, 0) 7 true 0x102).block ∧
    BlockInv (idleState .reverse (0, 60) 7 false 0x053).cfg
      (idleState .reverse (0, 60) 7 false 0x053).block ∧
    BlockInv (settleState .forward 0 9 false).cfg (settleState .forward 0 9 false).block ∧
    stepsTo (idleState .stop (0, 0) 7 true 0x046) (fun t => t.block.evtCode == 0x1#4) = true ∧
    stepsTo (settleState .reverse 0 9 false) (fun t => t.block.evtCode == 0x2#4) = true ∧
    stepsTo (idleState .forward (60, 0) 7 true 0x053) (fun t => t.block.evtCode == 0x3#4) = true ∧
    stepsTo (idleState .forward (60, 0) 7 true 0x052) (fun t => t.block.evtCode == 0x4#4) = true ∧
    stepsTo (idleState .stop (0, 0) 7 true 0x102) (fun t => t.block.evtCode == 0x5#4) = true ∧
    stepsTo (idleState .forward (60, 0) 7 true 0x046) (fun t => t.block.evtCode == 0x6#4) = true ∧
    stepsTo (idleState .reverse (0, 60) 7 false 0x053) (fun t => t.block.evtCode == 0x7#4) = true :=
  ⟨inv_stop _ _ _, inv_reverse _ _ _, inv_settle _ _ _ _ (by decide), by decide, by decide,
    by decide, by decide, by decide, by decide, by decide⟩

/-- DisciplinedHostNeverFaults and LawfulScriptIsDisciplined: the reset state, with a script of the
host software, a POWER at the range's end and raw cycles. -/
theorem witness_disciplined :
    Disciplined State.reset ∧ (∃ t, step State.reset = .next t) ∧
    ∀ l ∈ ([.rxByte 0x46, .power 9, .op 0x102, .cycle Ports.boot, .ticks 3] : List Line) ++
        hostIteration (some 4095),
      l.lawful = true :=
  have ⟨t, h, _⟩ := exists_of_stepsTo (s := State.reset) (P := fun _ => true) (by decide)
  ⟨⟨rfl, rfl, rfl, by decide, nofun⟩, ⟨t, h⟩, by decide⟩

/-- Ports with a tick and without one. -/
def tickPorts (k : Bool) : Ports := { Ports.boot with tick := k }

/-- SettleCompletesAfterItsTicks: two ticks to count with a gap before the second (vector S4), and
no tick at all to count (vector S1). -/
theorem witness_settle_ticks :
    BlockInv (settleState .reverse 2 9 true).cfg (settleState .reverse 2 9 true).block ∧
    (settleState .reverse 2 9 true).block.ph = .settle ∧
    (settleState .reverse 2 9 true).block.tgt = some .reverse ∧
    (settleState .reverse 2 9 true).block.cnt = 2#16 ∧ (tickPorts false).rst = false ∧
    tickCount [tickPorts true, tickPorts false, tickPorts true] = (2#16).toNat ∧
    (∀ p ∈ [tickPorts true, tickPorts false, tickPorts true], p.rst = false) ∧
    (∀ n < 3, tickCount ([tickPorts true, tickPorts false, tickPorts true].take n) < (2#16).toNat) ∧
    tickCount [] = (0#16).toNat ∧ (∀ n < ([] : List Ports).length, False) :=
  ⟨inv_settle _ _ _ _ (by decide), rfl, rfl, rfl, rfl, by decide, by decide, by decide, rfl, nofun⟩

/-- SettleHangsWithoutTicks (vector S5). -/
theorem witness_no_ticks :
    (settleState .reverse 1 9 false).block.ph = .settle ∧
      (settleState .reverse 1 9 false).block.cnt ≠ 0#16 ∧
      (∀ p ∈ [tickPorts false, tickPorts false], p.rst = false ∧ p.tick = false) ∧
      [tickPorts false, tickPorts false] ≠ [] := by decide

/-- CommandReachesItsDirection: MANUAL. -/
theorem witness_manual : forwardState.inp.manual = true := rfl

/-- RepeatedCommandChangesNothing: F from STOP, F in FORWARD and S in FORWARD stay in IDLE. -/
theorem witness_repeat :
    (Instr.f ∈ [Instr.f, .r, .s]) ∧ (idleState .stop (0, 0) 7 true 0x046).block.ph = .idle ∧
    ∃ t, exec .f (idleState .stop (0, 0) 7 true 0x046) = .next t ∧ t.block.ph = .idle :=
  ⟨by decide, rfl, _, rfl, by decide⟩

/-- UpdatePowerResult: each mode, and Power at 0, inside, and at 9. -/
theorem witness_update_power :
    (∀ m : Mode, ∀ p : Fin 10,
      ({ HostState.boot defaultHostParams with mode := m, power := p }).mode = m ∧
      ({ HostState.boot defaultHostParams with mode := m, power := p }).power = p) ∧
    Direction.forward ≠ .stop :=
  ⟨fun _ _ => ⟨rfl, rfl⟩, by decide⟩

/-- ModeTogglesOnlyThroughManual: different triggers, each trigger in each mode with what R177 gives (the
other pair's as D23 decides), and a code that is neither. -/
theorem witness_triggers :
    let p := defaultHostParams
    p.lightTrigger ≠ p.timeTrigger ∧
    (1 = p.lightTrigger ∧ toggleMode p 1 .manual = (.lightControl, some (.modeIs .lightControl))) ∧
    (1 = p.lightTrigger ∧ toggleMode p 1 .lightControl = (.manual, some (.modeIs .manual))) ∧
    (1 = p.lightTrigger ∧ toggleMode p 1 .timeControl = (.timeControl, some .triggerIgnored)) ∧
    (2 = p.timeTrigger ∧ toggleMode p 2 .manual = (.timeControl, some (.modeIs .timeControl))) ∧
    (2 = p.timeTrigger ∧ toggleMode p 2 .timeControl = (.manual, some (.modeIs .manual))) ∧
    (2 = p.timeTrigger ∧ toggleMode p 2 .lightControl = (.lightControl, some .triggerIgnored)) ∧
    (toggleMode p 3 .lightControl).1 ≠ .timeControl ∧
    (toggleMode p 3 .timeControl).1 ≠ .lightControl := by decide

/-- SerialByteRouting: the first and the last digit, a command, and the bytes next to the digits. -/
theorem witness_serial :
    (∀ b : Byte, ({ HostState.boot defaultHostParams with serial := some b }).serial = some b) ∧
    (0x30#8).toNat = 0x30 + (0 : Fin 10).val ∧ (0x39#8).toNat = 0x30 + (9 : Fin 10).val ∧
    ¬(0x30 ≤ (0x2F#8).toNat ∧ (0x2F#8).toNat ≤ 0x39) ∧
    ¬(0x30 ≤ (0x3A#8).toNat ∧ (0x3A#8).toNat ≤ 0x39) :=
  ⟨fun _ => rfl, by decide, by decide, by decide, by decide⟩

/-- HostNotificationsAreKept: a cycle without a held word that leaves the block idle, a digit outside
MANUAL at each end of its range with the serial poll next, and a trigger code with the button poll
next. -/
theorem witness_notifications :
    ∀ b ∈ [0x30#8, 0x39#8], ∀ a ∈ [HostAct.serial, .mode],
      let s : State :=
        { unofferedState with
          env := ⟨[.host a], false,
            { HostState.boot defaultHostParams with
              mode := .timeControl, serial := some b, button := some 1 }, none⟩ }
      (s.env.hold = true → s.accepted = true) ∧ s.env.script = .host a :: [] ∧
        s.env.host.serial = some b ∧ s.env.host.mode ≠ .manual ∧ 0x30 ≤ b.toNat ∧
        b.toNat ≤ 0x39 ∧ s.env.host.button = some 1 ∧
        stepsTo s (fun t => decide (t.block.ph = .idle)) = true := by decide

/-- HostReversalEnds: a settle phase with a tick to count, with no line left and with a host action
next, under a time base that has just strobed; and no tick left to count. TimeBaseKeepsItsPeriod: no
line left. -/
theorem witness_time_base :
    BlockInv (settleState .reverse 1 9 false).cfg (settleState .reverse 1 9 false).block ∧
    (settleState .reverse 1 9 false).block.ph = .settle ∧
    (settleState .reverse 1 9 false).inp.rst = false ∧
    (settleState .reverse 1 9 false).block.tgt = some .reverse ∧
    (settleState .reverse 0 9 false).block.cnt = 0#16 ∧
    ∀ l ∈ [[], [Line.host .serial]],
      let s : State :=
        { settleState .reverse 1 9 false with
          env := ⟨l, false, HostState.boot defaultHostParams, some 2⟩ }
      s.env.hold = false ∧ s.env.timeBase = some 2 ∧
        (s.env.script = [] ∨ s.env.script = .host .serial :: []) :=
  ⟨inv_settle _ _ _ _ (by decide), rfl, rfl, rfl, rfl, by decide⟩

/-- HostWaitsWhileBusy: the step that accepts a held R in FORWARD with a host action next, and a settle
cycle with one next. OfferedWordIsHeld: a held word in the settle phase. -/
theorem witness_environment_waits :
    (let s : State :=
      { idleState .forward (60, 0) 7 true 0x052 with
        env := ⟨[.host .serial], true, HostState.boot defaultHostParams, some 0⟩ }
     s.env.script = .host .serial :: [] ∧ s.accepted = true ∧
       stepsTo s (fun t => decide (t.block.ph = .settle)) = true) ∧
    (let s : State :=
      { settleState .reverse 1 9 true with
        env := ⟨[.host .serial], false, HostState.boot defaultHostParams, some 0⟩ }
     s.env.script = .host .serial :: [] ∧ s.env.hold = false ∧
       stepsTo s (fun t => decide (t.block.ph = .settle)) = true) ∧
    (let s : State :=
      { settleState .reverse 1 9 true with
        env := ⟨[], true, HostState.boot defaultHostParams, some 0⟩ }
     s.env.hold = true ∧ s.accepted = false) := by decide

end Sys2Proof.Machine.Tests
end

section
/-! PROOFS. The state family: how a cycle treats the operation port, the duty registers, the status
word and the output ports (10_state.md R26, R29, R30, R32). -/

namespace Sys2Proof.Machine

/-! ### The handshake, and a cycle by its kind (R29, R130) -/

theorem State.opwReady_iff (s : State) :
    s.opwReady = true ↔ s.block.ph = .idle ∧ s.inp.rst = false := by
  simp [State.opwReady]

theorem State.accepted_iff (s : State) :
    s.accepted = true ↔ s.inp.opwValid = true ∧ s.opwReady = true := by
  simp [State.accepted]

theorem State.accepted_of_idle (s : State) (hr : s.inp.rst = false) (hp : s.block.ph = .idle)
    (hv : s.inp.opwValid = true) : s.accepted = true :=
  s.accepted_iff.mpr ⟨hv, s.opwReady_iff.mpr ⟨hp, hr⟩⟩

theorem State.cycle_of_rst {s : State} (hr : s.inp.rst = true) : s.cycle = .next s.resetBlock := by
  simp [State.cycle, hr]

theorem State.cycle_of_settle {s : State} (hr : s.inp.rst = false) (hp : s.block.ph = .settle) :
    s.cycle = .next s.settleStep := by
  simp [State.cycle, hr, hp]

theorem State.cycle_of_unoffered {s : State} (hr : s.inp.rst = false) (hp : s.block.ph = .idle)
    (hv : s.inp.opwValid = false) : s.cycle = .next s.quiet := by
  simp [State.cycle, hr, hp, hv]

/-- The environment's move after a cycle changes neither the block nor the fault record. -/
theorem blockAfter_step (s : State) : blockAfter (step s) = blockAfter s.cycle := by
  cases h : s.cycle with
  | next u => simp [step_of_cycle h, blockAfter]
  | fault r => simp [step, State.clock, h, blockAfter]
  | refused r => simp [step, State.clock, h, blockAfter]

/-! ### What a settle step reads of the ports: `tick` and `power_in` (R150) -/

theorem State.drive_withPorts (d : Direction) (s : State) {q : Ports}
    (hp : q.powerIn = s.inp.powerIn) :
    ({ s with inp := q } : State).drive d = { s.drive d with inp := q } := by
  simp only [State.drive, hp]
  split <;> rfl

theorem State.setOp_withPorts (d : Direction) (s : State) (q : Ports) :
    ({ s with inp := q } : State).setOp d = { s.setOp d with inp := q } := rfl

theorem State.completeSettle_withPorts (s : State) {q : Ports} (hp : q.powerIn = s.inp.powerIn) :
    ({ s with inp := q } : State).completeSettle = { s.completeSettle with inp := q } := by
  simp only [State.completeSettle, State.setOp_withPorts]
  rw [State.drive_withPorts _ (s.setOp (targetDirection s.block.tgt)) hp]
  rfl

theorem State.settleStep_withPorts (s : State) {q : Ports} (ht : q.tick = s.inp.tick)
    (hp : q.powerIn = s.inp.powerIn) :
    ({ s with inp := q } : State).settleStep = { s.settleStep with inp := q } := by
  simp only [State.settleStep, ht]
  split
  · exact s.completeSettle_withPorts hp
  · split <;> rfl

/-- In a cycle that accepts no word, the block reads of its ports `rst`, `opw_valid`, `tick` and
`power_in` only. -/
theorem State.blockAfter_cycle_withPorts {s : State} {q : Ports} (ha : s.accepted = false)
    (hqr : q.rst = s.inp.rst) (hqv : q.opwValid = s.inp.opwValid) (hqt : q.tick = s.inp.tick)
    (hqp : q.powerIn = s.inp.powerIn) :
    blockAfter ({ s with inp := q } : State).cycle = blockAfter s.cycle := by
  obtain ⟨hr, hc⟩ | ⟨hr, hp, hc⟩ | ⟨hr, hp, hv, -⟩ | ⟨hr, hp, hv, hc⟩ := s.cycle_cases
  · rw [hc, State.cycle_of_rst (s := { s with inp := q }) (hqr.trans hr)]; rfl
  · rw [hc, State.cycle_of_settle (s := { s with inp := q }) (hqr.trans hr) hp,
      s.settleStep_withPorts hqt hqp]; rfl
  · exact absurd (s.accepted_of_idle hr hp hv) (by simp [ha])
  · rw [hc, State.cycle_of_unoffered (s := { s with inp := q }) (hqr.trans hr) hp
      (hqv.trans hv)]; rfl

/-- Settles O34: the readiness and acceptance rules by definition, the rest by the kind of cycle. -/
theorem handshakeIgnoresUnacceptedWord : Obligations.HandshakeIgnoresUnacceptedWord := by
  intro s
  refine ⟨s.opwReady_iff, s.accepted_iff, fun w ha => ?_⟩
  rw [blockAfter_step, blockAfter_step]
  exact State.blockAfter_cycle_withPorts (q := { s.inp with opw := w }) ha rfl rfl rfl rfl

/-! ### The writers of the duty registers (R26) -/

/-- Of the operations, only a drive changes a duty register: F and R unless the motor already runs
that way, an S that stops it, and DRIVE. -/
theorem ExecCase.drive_of_duty_ne {i : Instr} {s u : State} (h : ExecCase i s u)
    (hd : u.block.dutyF ≠ s.block.dutyF ∨ u.block.dutyR ≠ s.block.dutyR) :
    (i = .f ∧ s.block.op ≠ .forward) ∨ (i = .r ∧ s.block.op ≠ .reverse) ∨
      (i = .s ∧ s.inp.manual = true ∧ s.block.op ≠ .stop) ∨ i = .drive := by
  cases h with
  | enter d hi ho => cases d <;> simp [hi, ho, commandFor]
  | reversal d hi ho => cases d <;> simp [hi, ho, commandFor, Turn.opposite, Turn.toDirection]
  | stop hi hm ho => exact .inr (.inr (.inl ⟨hi, hm, ho⟩))
  | drive hi => exact .inr (.inr (.inr hi))
  | already | stopped => simp [State.noop_block] at hd
  | reject | forced | quiet | illegal => simp at hd

/-- Settles O25, by the kind of cycle and, in one that accepts a word, by the operation. -/
theorem onlyDrivesWriteDuty : Obligations.OnlyDrivesWriteDuty := by
  intro s t h hd
  obtain ⟨u, hu, -, rfl⟩ := step_cases h
  simp only [State.advance_block] at hd
  cases hu with
  | reset hr => exact .inl hr
  | complete _ hp hc => exact .inr (.inl ⟨hp, hc⟩)
  | run hr hp hv _ hx =>
    exact .inr (.inr ⟨s.accepted_of_idle hr hp hv, hx.drive_of_duty_ne hd⟩)
  | count | hold | idle => simp at hd

/-! ### The status word and the output ports (R30, R32)

A field is reached in the concatenation by leaving out the fields below it, one
`extractLsb'_append_eq_of_le` for each. -/

theorem Block.status_op (b : Block) : b.status.extractLsb' 0 2 = b.op.code :=
  BitVec.extractLsb'_append_eq_right

theorem Block.status_busy (b : Block) : b.status.extractLsb' 2 1 = b.ph.code :=
  (BitVec.extractLsb'_append_eq_of_le (by decide)).trans BitVec.extractLsb'_append_eq_right

theorem Block.status_tgt (b : Block) :
    b.status.extractLsb' 3 2 = (targetDirection b.tgt).code :=
  (BitVec.extractLsb'_append_eq_of_le (by decide)).trans <|
    (BitVec.extractLsb'_append_eq_of_le (by decide)).trans BitVec.extractLsb'_append_eq_right

theorem Block.status_errPwr (b : Block) : b.status.getLsbD 5 = b.errPwr := by
  simp only [Block.status, BitVec.getLsbD_append]
  simp

theorem Block.status_errIll (b : Block) : b.status.getLsbD 6 = b.errIll := by
  simp only [Block.status, BitVec.getLsbD_append]
  simp

theorem Block.status_reserved (b : Block) : b.status.extractLsb' 7 9 = 0#9 :=
  (BitVec.extractLsb'_append_eq_of_le (by decide)).trans <|
    (BitVec.extractLsb'_append_eq_of_le (by decide)).trans <|
    (BitVec.extractLsb'_append_eq_of_le (by decide)).trans <|
    (BitVec.extractLsb'_append_eq_of_le (by decide)).trans BitVec.extractLsb'_append_eq_left

/-- Settles O41, from the lemmas for the single fields. -/
theorem statusWordLayout : Obligations.StatusWordLayout := by
  refine ⟨fun b => ⟨?_, ?_, ?_, b.status_errPwr, b.status_errIll, b.status_reserved⟩, by decide⟩
  · rw [b.status_op]; cases b.op <;> rfl
  · rw [b.status_busy]; cases b.ph <;> rfl
  · rw [b.status_tgt]
    match b.tgt with
    | none | some .forward | some .reverse => rfl

/-- Settles O42: the outputs but `opw_ready` are fields of the block, which no port is part of. -/
theorem outputPortValues : Obligations.OutputPortValues :=
  fun _ => ⟨rfl, rfl, rfl, rfl, rfl, rfl, rfl, fun _ => rfl⟩

end Sys2Proof.Machine
end

section
/-! PROOFS. The duty mapper family: what DRIVE writes (40_duty_mapper.md R104, R110). -/

namespace Sys2Proof.Machine

/-! ### The pair of a drive, channel by channel (R12, R104) -/

theorem drivePair_fst (c : Config) (d : Direction) (p : Power) :
    (drivePair c d p).1 = if d = .forward then mapPower c p else 0#7 := by
  cases d <;> rfl

theorem drivePair_snd (c : Config) (d : Direction) (p : Power) :
    (drivePair c d p).2 = if d = .reverse then mapPower c p else 0#7 := by
  cases d <;> rfl

theorem powerIllegal_eq_decide (p : Power) : powerIllegal p = decide (9 < p.toNat) :=
  Bool.eq_iff_iff.mpr ((powerIllegal_iff p).trans decide_eq_true_iff.symm)

/-- Settles O14: DRIVE is the drive in the present direction without an event, so the block follows
from `State.drive_block` and the pair channel by channel. -/
theorem driveResult : Obligations.DriveResult := by
  refine ⟨by decide, fun s => ⟨(s.drive s.block.op).quiet, rfl, ?_, ?_⟩⟩
  · exact exec_surroundings (i := .drive) rfl
  · rw [State.quiet_block, State.drive_block, drivePair_fst, drivePair_snd, powerIllegal_eq_decide]
    rfl

end Sys2Proof.Machine
end

section
/-! PROOFS. The direction family: the transition table of F, R and S, the operations that move no
duty, and the settle step (41_direction_fsm.md R131 to R140, R150). -/

namespace Sys2Proof.Machine

/-- Every operation has a next state in every state. -/
theorem exec_next (i : Instr) (s : State) : ∃ t, exec i s = .next t := by
  cases i with
  | f => simp only [exec, execF]; split <;> exact ⟨_, rfl⟩
  | r => simp only [exec, execR]; split <;> exact ⟨_, rfl⟩
  | s =>
    simp only [exec, execS]
    split
    · split <;> exact ⟨_, rfl⟩
    · exact ⟨_, rfl⟩
  | ffwd => simp only [exec, execFfwd]; split <;> exact ⟨_, rfl⟩
  | nop | drive | byte b | word b => exact ⟨_, rfl⟩

/-! ### The cells of the transition table (R131 to R133, R138) -/

theorem exec_commandFor_of_stop (d : Turn) {s : State} (ho : s.block.op = .stop) :
    exec (commandFor d) s = .next (s.enter d) := by
  cases d <;> simp [commandFor, exec, execF, execR, ho]

theorem exec_commandFor_of_same (d : Turn) {s : State} (ho : s.block.op = d.toDirection) :
    exec (commandFor d) s = .next s.noop := by
  cases d <;> simp [commandFor, exec, execF, execR, ho, Turn.toDirection]

theorem exec_commandFor_of_opposite (d : Turn) {s : State}
    (ho : s.block.op = d.opposite.toDirection) :
    exec (commandFor d) s = .next (s.beginReversal d) := by
  cases d <;> simp [commandFor, exec, execF, execR, ho, Turn.opposite, Turn.toDirection]

theorem exec_s_of_auto {s : State} (hm : s.inp.manual = false) :
    exec .s s = .next (s.emit .reject) := by
  simp [exec, execS, hm]

theorem exec_s_of_stop {s : State} (hm : s.inp.manual = true) (ho : s.block.op = .stop) :
    exec .s s = .next s.noop := by
  simp [exec, execS, hm, ho]

theorem exec_s_of_moving {s : State} (hm : s.inp.manual = true) (ho : s.block.op ≠ .stop) :
    exec .s s = .next s.stopMotor := by
  cases h : s.block.op with
  | stop => exact absurd h ho
  | forward | reverse => simp [exec, execS, hm, h]

theorem exec_ffwd_of_stop {s : State} (ho : s.block.op = .stop) :
    exec .ffwd s = .next ((s.setOp .forward).emit .forcedFwd) := by
  simp [exec, execFfwd, ho]

theorem exec_ffwd_of_moving {s : State} (ho : s.block.op ≠ .stop) :
    exec .ffwd s = .next s.quiet := by
  cases h : s.block.op with
  | stop => exact absurd h ho
  | forward | reverse => simp [exec, execFfwd, h]

/-! ### The settle step (R150) -/

theorem step_of_settle {s : State} (hr : s.inp.rst = false) (hp : s.block.ph = .settle) :
    step s = .next (s.settleStep.advance s.accepted) :=
  step_of_cycle (State.cycle_of_settle hr hp)

theorem State.opwReady_of_settle {s : State} (hp : s.block.ph = .settle) : s.opwReady = false := by
  simp [State.opwReady, hp]

theorem State.accepted_of_settle {s : State} (hp : s.block.ph = .settle) : s.accepted = false := by
  simp [State.accepted, State.opwReady_of_settle hp]

/-- A settle phase with a target ends in the drive in that direction. -/
theorem State.completeSettle_block_of_target {s : State} {d : Turn} (hd : s.block.tgt = some d) :
    s.completeSettle.block =
      { s.block with
        op := d.toDirection
        dutyF := if d = .forward then mapPower s.cfg s.inp.powerIn else 0#7
        dutyR := if d = .reverse then mapPower s.cfg s.inp.powerIn else 0#7
        errPwr := s.block.errPwr || decide (9 < s.inp.powerIn.toNat)
        ph := .idle, tgt := none
        evtV := true, evtCode := if d = .forward then 0x1#4 else 0x2#4 } := by
  rw [State.completeSettle_block, hd, powerIllegal_eq_decide]
  cases d <;> rfl

/-- A nonzero count goes down by one as a number. -/
theorem count_sub_one {c : Count} (hc : c ≠ 0#16) : c - 1#16 = BitVec.ofNat 16 (c.toNat - 1) := by
  bv_omega

/-- Settles O18, by the three cases of the settle step. -/
theorem settleStepResult : Obligations.SettleStepResult := by
  intro s hr hp
  refine ⟨State.opwReady_of_settle hp, State.accepted_of_settle hp, _, step_of_settle hr hp,
    (State.advance_cfg _ _).trans s.settleStep_surroundings.1, ?_⟩
  rw [State.advance_block]
  obtain ⟨hc, e⟩ | ⟨hc, ht, e⟩ | ⟨hc, ht, e⟩ := s.settleStep_cases <;> rw [e]
  · exact ⟨fun _ d hd => State.completeSettle_block_of_target hd, (absurd hc ·), (absurd hc ·)⟩
  · refine ⟨(absurd · hc), fun _ _ => ?_, fun _ hf => absurd hf (by simp [ht])⟩
    rw [← count_sub_one hc]
    rfl
  · exact ⟨(absurd · hc), fun _ hf => absurd hf (by simp [ht]), fun _ _ => rfl⟩

/-! ### F and R (R131, R132) -/

/-- The two direction commands at once: `F` for FORWARD and `R` for REVERSE. -/
theorem exec_commandFor_result (d : Turn) (s : State) :
    ∃ t, exec (commandFor d) s = .next t ∧ SameSurroundings s t ∧
      (s.block.op = .stop →
        t.block =
          { s.block with
            op := d.toDirection
            dutyF := (drivePair s.cfg d.toDirection s.inp.powerIn).1
            dutyR := (drivePair s.cfg d.toDirection s.inp.powerIn).2
            errPwr := s.block.errPwr || decide (9 < s.inp.powerIn.toNat)
            evtV := true, evtCode := d.event.code }) ∧
      (s.block.op = d.toDirection →
        t.block =
          { s.block with
            evtV := s.cfg.notifyNoop, evtCode := if s.cfg.notifyNoop then 0x6#4 else 0x0#4 }) ∧
      (s.block.op = d.opposite.toDirection →
        t.block =
          { s.block with
            op := .stop, dutyF := 0#7, dutyR := 0#7, ph := .settle, tgt := some d
            cnt := s.cfg.settleTicks, evtV := true, evtCode := 0x4#4 }) := by
  obtain ⟨t, h⟩ := exec_next (commandFor d) s
  refine ⟨t, h, exec_surroundings h, fun ho => ?_, fun ho => ?_, fun ho => ?_⟩
  · cases h.symm.trans (exec_commandFor_of_stop d ho)
    rw [State.enter_block, powerIllegal_eq_decide]
  · cases h.symm.trans (exec_commandFor_of_same d ho)
    exact s.noop_block
  · cases h.symm.trans (exec_commandFor_of_opposite d ho)
    exact s.beginReversal_block d

/-- A completed reversal drives in its direction, with the power of that cycle. -/
theorem step_completes_reversal {s : State} {d : Turn} (hr : s.inp.rst = false)
    (hp : s.block.ph = .settle) (hd : s.block.tgt = some d) (hc : s.block.cnt = 0#16) :
    ∃ t, step s = .next t ∧ t.block.op = d.toDirection ∧
      t.block.dutyF = (if d = .forward then mapPower s.cfg s.inp.powerIn else 0#7) ∧
      t.block.dutyR = (if d = .reverse then mapPower s.cfg s.inp.powerIn else 0#7) := by
  obtain ⟨-, -, t, ht, -, hcomplete, -⟩ := settleStepResult s hr hp
  exact ⟨t, ht, by simp [hcomplete hc d hd]⟩

/-- Settles O10: `F` is the command for FORWARD. -/
theorem forwardCommandResult : Obligations.ForwardCommandResult := by
  refine ⟨by decide, exec_commandFor_result .forward, fun s hr hp hd hc => ?_⟩
  obtain ⟨t, ht, hop, hf, hrev⟩ := step_completes_reversal hr hp hd hc
  exact ⟨t, ht, hop, hrev, hf⟩

/-- Settles O11: `R` is the command for REVERSE, and its clauses stand in the table's order. -/
theorem reverseCommandResult : Obligations.ReverseCommandResult :=
  ⟨by decide, exec_commandFor_result .reverse, fun _ => step_completes_reversal⟩

/-! ### S and FFWD (R133, R138) -/

/-- Settles O12, by the mode and then the direction. -/
theorem stopCommandResult : Obligations.StopCommandResult := by
  refine ⟨by decide, fun s => ?_, fun s => State.accepted_of_settle⟩
  obtain ⟨t, h⟩ := exec_next .s s
  refine ⟨t, h, exec_surroundings h, fun hm => ?_, fun hm ho => ?_, fun hm ho => ?_⟩
  · cases h.symm.trans (exec_s_of_auto hm)
    rfl
  · cases h.symm.trans (exec_s_of_stop hm ho)
    exact s.noop_block
  · cases h.symm.trans (exec_s_of_moving hm ho)
    exact s.stopMotor_block

/-- Settles O13, by whether the motor stands. -/
theorem forcedForwardResult : Obligations.ForcedForwardResult := by
  refine ⟨by decide, fun s => ?_⟩
  obtain ⟨t, h⟩ := exec_next .ffwd s
  refine ⟨t, h, exec_surroundings h, fun ho => ?_, fun ho => ?_⟩
  · cases h.symm.trans (exec_ffwd_of_stop ho)
    rfl
  · cases h.symm.trans (exec_ffwd_of_moving ho)
    rfl

/-! ### NOP and the ignored bytes (R139, R140) -/

/-- Settles O15: NOP is the quiet cycle. -/
theorem nopResult : Obligations.NopResult := ⟨by decide, fun _ => rfl⟩

theorem byteField_assembleWord (k : Bool) (b : Byte) : byteField (assembleWord k b) = b := by
  cases k <;> ext i hi <;> simp [byteField, assembleWord]

theorem decode_assembleWord_byte {b : Byte} (hf : b ≠ 0x46#8) (hr : b ≠ 0x52#8) (hs : b ≠ 0x53#8) :
    decode (assembleWord false b) = .byte b := by
  simp [decode, Laws.kindBit_assembleWord, byteField_assembleWord, hf, hr, hs]

/-- Settles O16: a byte of no command decodes to itself, and its operation is the quiet cycle. -/
theorem ignoredByteResult : Obligations.IgnoredByteResult :=
  fun _ hf hr hs => ⟨decode_assembleWord_byte hf hr hs, fun _ => rfl⟩

end Sys2Proof.Machine
end

section
/-! PROOFS. The reset family: what a cycle with `rst = 1` leaves (70_reset_and_hazards.md R230, R231). -/

namespace Sys2Proof.Machine

theorem State.opwReady_of_rst {s : State} (hr : s.inp.rst = true) : s.opwReady = false := by
  simp [State.opwReady, hr]

theorem State.accepted_of_rst {s : State} (hr : s.inp.rst = true) : s.accepted = false := by
  simp [State.accepted, State.opwReady_of_rst hr]

theorem step_of_rst {s : State} (hr : s.inp.rst = true) :
    step s = .next (s.resetBlock.advance s.accepted) :=
  step_of_cycle (State.cycle_of_rst hr)

/-- The outputs of the reset state (R30, R230). Of the ports only `rst` counts: the block accepts a
word as soon as `rst` is released. -/
theorem State.outputs_of_reset {s : State} (hb : s.block = Block.reset) :
    s.outputs =
      { opwReady := !s.inp.rst, dutyF := 0#7, dutyR := 0#7, opState := 0b00#2, busy := 0#1
        evtValid := false, evtCode := 0#4, status := 0x0000#16 } := by
  have hstatus : Block.reset.status = 0x0000#16 := statusWordLayout.2
  rw [State.outputs, State.opwReady, hb, hstatus]
  rfl

/-- Settles O5: the cycle puts `Block.reset` in place of the whole block, and with it the target and
the count of a reversal in progress; the environment's move leaves the block so. -/
theorem resetCycleResult : Obligations.ResetCycleResult := by
  intro s hr
  have hb : (s.resetBlock.advance s.accepted).block = Block.reset := State.advance_block _ _
  refine ⟨State.opwReady_of_rst hr, State.accepted_of_rst hr, _, step_of_rst hr,
    State.advance_cfg _ _, ?_⟩
  rw [State.outputs_of_reset hb, hb]
  simp [Block.reset]

end Sys2Proof.Machine
end

section
/-! PROOFS. The encoding family: decode and encode are inverse, and the decoder follows the opcode
table (30_encoding.md R70 to R74, R82). -/

namespace Sys2Proof.Machine

theorem decode_assembleWord_word {b : Byte} (hn : b ≠ 0x00#8) (hd : b ≠ 0x01#8) (hf : b ≠ 0x02#8) :
    decode (assembleWord true b) = .word b := by
  simp [decode, Laws.kindBit_assembleWord, byteField_assembleWord, hn, hd, hf]

/-- Settles O1, by the operation: the six fixed words compute, and a byte that belongs to its class
passes every comparison of the decoder. -/
theorem decodeOfEncodeIsIdentity : Obligations.DecodeOfEncodeIsIdentity := by
  intro i hwf
  cases i with
  | f | r | s | nop | drive | ffwd => decide
  | byte b =>
    obtain ⟨⟨hf, hr⟩, hs⟩ : (b ≠ 0x46#8 ∧ b ≠ 0x52#8) ∧ b ≠ 0x53#8 := by
      simpa [Instr.wf, isCommandByte] using hwf
    exact decode_assembleWord_byte hf hr hs
  | word b =>
    obtain ⟨⟨hn, hd⟩, hf⟩ : (b ≠ 0x00#8 ∧ b ≠ 0x01#8) ∧ b ≠ 0x02#8 := by
      simpa [Instr.wf, isInternalOpcode] using hwf
    exact decode_assembleWord_word hn hd hf

/-- A word is its kind bit and its byte field (R70). -/
theorem assembleWord_kindBit_byteField (w : OpWord) :
    assembleWord (kindBit w) (byteField w) = w := by
  revert w; decide

/-- A decoded operation belongs to its class, and its word has the kind bit and the byte it was read
from. -/
theorem decode_wf_and_encode (w : OpWord) :
    (decode w).wf = true ∧ encode (decode w) = assembleWord (kindBit w) (byteField w) := by
  cases hk : kindBit w with
  | false =>
    simp only [decode, hk, if_true]
    split_ifs with hf hr hs
    · rw [hf]; decide
    · rw [hr]; decide
    · rw [hs]; decide
    · exact ⟨by simp [Instr.wf, isCommandByte, hf, hr, hs], rfl⟩
  | true =>
    simp only [decode, hk, Bool.true_eq_false, if_false]
    split_ifs with hn hd hf
    · rw [hn]; decide
    · rw [hd]; decide
    · rw [hf]; decide
    · exact ⟨by simp [Instr.wf, isInternalOpcode, hn, hd, hf], rfl⟩

/-- Settles O2: the operation's word has the word's own two fields. -/
theorem encodeOfDecodeIsIdentity : Obligations.EncodeOfDecodeIsIdentity := fun w =>
  ⟨(decode_wf_and_encode w).1,
    (decode_wf_and_encode w).2.trans (assembleWord_kindBit_byteField w)⟩

/-- Settles O3, over the 512 words. -/
theorem decodeFollowsOpcodeTable : Obligations.DecodeFollowsOpcodeTable := ⟨rfl, by decide⟩

/-- Settles O4: the decoder computes on each of the words. -/
theorem writtenWordsDecode : Obligations.WrittenWordsDecode := by
  unfold Obligations.WrittenWordsDecode
  decide

/-! ### The illegal words (R141, R202) -/

theorem recordFault_eq (k : Fault) (f : Option Fault) :
    recordFault k f = if f = none then some k else f := by
  cases f <;> rfl

/-- Settles O17: a reserved opcode is no assigned one, and its operation sets the flag and records the
fault. -/
theorem illegalWordResult : Obligations.IllegalWordResult := by
  intro b hb
  refine ⟨decode_assembleWord_word ?_ ?_ ?_, fun s => ?_⟩
  · rintro rfl; exact absurd hb (by decide)
  · rintro rfl; exact absurd hb (by decide)
  · rintro rfl; exact absurd hb (by decide)
  · rw [← recordFault_eq]; rfl

end Sys2Proof.Machine
end

section
/-! PROOFS. The duty tables and the mapper (00_scope.md R7, R8; 40_duty_mapper.md R101 to R103). -/

namespace Sys2Proof

theorem DutyTable.ofValues?_of_pduty {values : Vector Percent 10} (h : PDuty values) :
    ∃ table, DutyTable.ofValues? values = some table ∧ table.values = values :=
  ⟨⟨values, decide_eq_true h⟩, dif_pos (decide_eq_true h), rfl⟩

theorem DutyTable.ofValues?_of_not_pduty {values : Vector Percent 10} (h : ¬ PDuty values) :
    DutyTable.ofValues? values = none :=
  dif_neg (by simpa only [decide_eq_true_eq] using h)

/-- `P_duty` orders the table's neighbours, and with them any two of its entries. -/
theorem DutyTable.values_mono (table : DutyTable) {i j : Fin 10} (h : i ≤ j) :
    table.values[i.val] ≤ table.values[j.val] := by
  have hmono : Monotone fun i : Fin 10 => table.values[i.val].toNat :=
    Fin.monotone_iff_le_succ.mpr fun i => BitVec.le_def.mp (table.pduty.1 i)
  exact BitVec.le_def.mpr (hmono h)

end Sys2Proof

namespace Sys2Proof.Machine

/-- Settles O7: a table carries its own check, and admission is that check. -/
theorem onlyAdmittedTablesExist : Obligations.OnlyAdmittedTablesExist :=
  ⟨fun c => c.dutyTable.pduty, fun _ =>
    ⟨DutyTable.ofValues?_of_pduty, DutyTable.ofValues?_of_not_pduty⟩⟩

/-- Settles O8, over the 16 powers. -/
theorem defaultMapIsFormula : Obligations.DefaultMapIsFormula :=
  ⟨defaultConfig.dutyTable.pduty, by decide⟩

/-- The mapper answers a percent (R8, R103). -/
theorem mapPower_le (c : Config) (p : Power) : mapPower c p ≤ 100#7 := by
  by_cases h : p.toNat < 10
  · rw [mapPower_legal c p h]
    exact c.dutyTable.pduty.2.1 ⟨p.toNat, h⟩
  · rw [mapPower_outOfRange c p (Nat.not_lt.mp h)]
    decide

theorem mapPower_mono (c : Config) {p q : Power} (h : p ≤ q) : mapPower c p ≤ mapPower c q := by
  by_cases hq : q.toNat < 10
  · have hp : p.toNat < 10 := (BitVec.le_def.mp h).trans_lt hq
    rw [mapPower_legal c p hp, mapPower_legal c q hq]
    exact c.dutyTable.values_mono (i := ⟨p.toNat, hp⟩) (j := ⟨q.toNat, hq⟩) (BitVec.le_def.mp h)
  · rw [mapPower_outOfRange c q (Nat.not_lt.mp hq)]
    exact mapPower_le c p

theorem mapPower_zero (c : Config) : mapPower c 0#4 = 0#7 := c.dutyTable.pduty.2.2.1

theorem mapPower_nine (c : Config) : mapPower c 9#4 = 100#7 := c.dutyTable.pduty.2.2.2

theorem mapPower_of_nine_le (c : Config) {p : Power} (h : 9#4 ≤ p) : mapPower c p = 100#7 := by
  obtain rfl | hlt : p = 9#4 ∨ 10 ≤ p.toNat := by bv_omega
  · exact mapPower_nine c
  · exact mapPower_outOfRange c p hlt

/-- Settles O9: `P_duty` is the mapper's law on the table, and above it the mapper answers 100. -/
theorem mapIsMonotoneInRange : Obligations.MapIsMonotoneInRange := fun c =>
  ⟨fun _ _ => mapPower_mono c, mapPower_le c, mapPower_zero c, fun _ => mapPower_of_nine_le c⟩

end Sys2Proof.Machine
end

section
/-! PROOFS. The block's invariants I1 to I7 (10_state.md R34): the reset state meets them and every
step keeps them. -/

namespace Sys2Proof.Machine

/-! ### The percents of I6 -/

theorem dutyAllowed_zero (c : Config) : dutyAllowed c 0#7 := .inl rfl

theorem dutyAllowed_mapPower (c : Config) (p : Power) : dutyAllowed c (mapPower c p) := by
  by_cases h : p.toNat < 10
  · rw [mapPower_legal c p h]
    exact .inr (.inr (Vector.getElem_mem h))
  · exact .inr (.inl (mapPower_outOfRange c p (Nat.not_lt.mp h)))

theorem dutyAllowed.le {c : Config} {x : Percent} (h : dutyAllowed c x) : x ≤ 100#7 := by
  obtain rfl | rfl | hmem := h
  · decide
  · decide
  · obtain ⟨i, hi, rfl⟩ := Vector.mem_iff_getElem.mp hmem
    exact c.dutyTable.pduty.2.1 ⟨i, hi⟩

/-! ### What keeps the invariants -/

/-- The invariants do not read the event register or the error flags. -/
theorem BlockInv.withFlags {c : Config} {b : Block} (h : BlockInv c b) (p i v : Bool)
    (k : EvtCode) :
    BlockInv c { b with errPwr := p, errIll := i, evtV := v, evtCode := k } :=
  ⟨h.settling, h.idle, h.stopped, h.oneChannel, h.duties, h.counter⟩

theorem BlockInv.emit {c : Config} {b : Block} (h : BlockInv c b) (e : Event) :
    BlockInv c (b.emit e) :=
  h.withFlags _ _ _ _

theorem BlockInv.quiet {c : Config} {b : Block} (h : BlockInv c b) : BlockInv c b.quiet :=
  h.withFlags _ _ _ _

theorem BlockInv.reset (c : Config) : BlockInv c Block.reset :=
  ⟨nofun, fun _ => rfl, fun _ => ⟨rfl, rfl⟩, ⟨nofun, nofun⟩,
    ⟨dutyAllowed_zero c, dutyAllowed_zero c⟩, BitVec.le_def.mpr (Nat.zero_le _)⟩

/-- A drive in the direction held leaves an idle block in order, whatever it held before: I4 to I6 are
about the pair it writes (R12). -/
theorem BlockInv.driven {c : Config} {b : Block} (d : Direction) (p : Power) (hph : b.ph = .idle)
    (htgt : b.tgt = none) (hcnt : b.cnt ≤ c.settleTicks) :
    BlockInv c { b with op := d, dutyF := (drivePair c d p).1, dutyR := (drivePair c d p).2 } where
  settling h := absurd (hph.symm.trans h) nofun
  idle _ := htgt
  stopped := by rintro ⟨⟩; exact ⟨rfl, rfl⟩
  oneChannel := ⟨by rintro ⟨⟩; rfl, by rintro ⟨⟩; rfl⟩
  duties := by
    cases d
    · exact ⟨dutyAllowed_zero c, dutyAllowed_zero c⟩
    · exact ⟨dutyAllowed_mapPower c p, dutyAllowed_zero c⟩
    · exact ⟨dutyAllowed_zero c, dutyAllowed_mapPower c p⟩
  counter := hcnt

/-- A counted tick moves the counter away from `SETTLE_TICKS` (I7). -/
theorem BlockInv.count {c : Config} {b : Block} (h : BlockInv c b) (hc : b.cnt ≠ 0#16) :
    BlockInv c { b with cnt := b.cnt - 1#16 } where
  settling := h.settling
  idle := h.idle
  stopped := h.stopped
  oneChannel := h.oneChannel
  duties := h.duties
  counter := by
    have hle := h.counter
    show b.cnt - 1#16 ≤ c.settleTicks
    bv_omega

/-- A reversal begins stopped, with its target and the full count (R137). -/
theorem BlockInv.reversal {c : Config} (b : Block) (d : Turn) :
    BlockInv c
      { b with
        op := .stop, dutyF := 0#7, dutyR := 0#7, ph := .settle, tgt := some d
        cnt := c.settleTicks } :=
  ⟨fun _ => ⟨rfl, nofun, rfl, rfl⟩, nofun, fun _ => ⟨rfl, rfl⟩, ⟨nofun, nofun⟩,
    ⟨dutyAllowed_zero c, dutyAllowed_zero c⟩, BitVec.le_refl _⟩

/-- An operation, which runs in IDLE only, keeps the invariants. -/
theorem ExecCase.blockInv {i : Instr} {s u : State} (hx : ExecCase i s u)
    (h : BlockInv s.cfg s.block) (hp : s.block.ph = .idle) : BlockInv s.cfg u.block := by
  have htgt := h.idle hp
  cases hx with
  | enter d =>
    rw [State.enter_block]
    exact (BlockInv.driven _ _ hp htgt h.counter).withFlags _ s.block.errIll _ _
  | already | stopped =>
    rw [State.noop_block]
    exact h.withFlags s.block.errPwr s.block.errIll _ _
  | reversal d =>
    rw [State.beginReversal_block]
    exact (BlockInv.reversal s.block d).withFlags s.block.errPwr s.block.errIll _ _
  | stop =>
    exact (BlockInv.driven .stop 0#4 hp htgt h.counter).emit .stop
  | reject => exact h.emit .reject
  | forced hi ho =>
    obtain ⟨hf, hr⟩ := h.stopped ho
    exact BlockInv.emit (b := { s.block with op := .forward })
      ⟨fun hs => absurd (hp.symm.trans hs) nofun, h.idle, nofun, ⟨fun _ => hr, nofun⟩, h.duties,
        h.counter⟩ .forcedFwd
  | drive =>
    rw [State.quiet_block, State.drive_block]
    exact ((BlockInv.driven s.block.op _ hp htgt h.counter).withFlags _ s.block.errIll
      s.block.evtV s.block.evtCode).quiet
  | quiet => exact h.quiet
  | illegal => exact (h.withFlags s.block.errPwr true s.block.evtV s.block.evtCode).quiet

/-- A cycle keeps the invariants. -/
theorem CycleCase.blockInv {s u : State} (hu : CycleCase s u) (h : BlockInv s.cfg s.block) :
    BlockInv s.cfg u.block := by
  cases hu with
  | reset => exact BlockInv.reset _
  | complete =>
    rw [State.completeSettle_block]
    exact (BlockInv.driven (b := { s.block with ph := .idle, tgt := none }) _ _ rfl rfl
      h.counter).withFlags _ s.block.errIll _ _
  | count _ _ hc => exact (h.count hc).quiet
  | hold | idle => exact h.quiet
  | run _ hp _ _ hx => exact hx.blockInv h hp

/-- Settles O43: the invariants are about the parameters and the block, which the environment's move
leaves alone. -/
theorem stepKeepsBlockInvariant : Obligations.StepKeepsBlockInvariant := by
  intro s t h hst
  obtain ⟨u, hu, ⟨hcfg, -, -⟩, rfl⟩ := step_cases hst
  rw [State.advance_cfg, State.advance_block, hcfg]
  exact hu.blockInv h

/-- The invariants make both duties percents, at most one of them nonzero. -/
theorem BlockInv.percents {c : Config} {b : Block} (h : BlockInv c b) :
    b.dutyF ≤ 100#7 ∧ b.dutyR ≤ 100#7 ∧ (b.dutyF = 0#7 ∨ b.dutyR = 0#7) := by
  refine ⟨h.duties.1.le, h.duties.2.le, ?_⟩
  cases ho : b.op with
  | stop => exact .inl (h.stopped ho).1
  | forward => exact .inr (h.oneChannel.1 ho)
  | reverse => exact .inl (h.oneChannel.2 ho)

/-- Settles O44, from the invariants before and after the step. -/
theorem dutyStaysAPercent : Obligations.DutyStaysAPercent := by
  intro s t h hst
  obtain ⟨hf, hr, hone⟩ := h.percents
  exact ⟨hf, hr, hone, (stepKeepsBlockInvariant s t h hst).percents⟩

/-- Settles O6, by the reset values. -/
theorem resetStateMeetsInvariants : Obligations.ResetStateMeetsInvariants :=
  ⟨BlockInv.reset _, .inl ⟨rfl, rfl⟩, by simp [ErrorsRecorded, State.reset, Block.reset],
    DutyTable.pduty _, ⟨rfl, rfl, rfl, by decide, nofun⟩, rfl⟩

end Sys2Proof.Machine
end

section
/-! PROOFS. The step as a whole: it never stops, it writes no parameter, and it runs the word it
accepts (10_state.md R29, 41_direction_fsm.md R130, 60_exceptions.md R200). -/

namespace Sys2Proof.Machine

/-- Every cycle has a next state. -/
theorem State.cycle_next (s : State) : ∃ u, s.cycle = .next u := by
  obtain ⟨-, h⟩ | ⟨-, -, h⟩ | ⟨-, -, -, h⟩ | ⟨-, -, -, h⟩ := s.cycle_cases
  · exact ⟨_, h⟩
  · exact ⟨_, h⟩
  · rw [h]; exact exec_next _ s
  · exact ⟨_, h⟩

/-- Settles O22: a step stops only where its cycle does. -/
theorem everyStepAnswersNext : Obligations.EveryStepAnswersNext := fun s =>
  let ⟨_, h⟩ := s.cycle_next
  ⟨_, step_of_cycle h⟩

/-- Settles O23, by the frame of the cycle and of the environment's move. -/
theorem parametersNeverWritten : Obligations.ParametersNeverWritten := by
  intro s t h
  obtain ⟨u, -, ⟨hcfg, -, -⟩, rfl⟩ := step_cases h
  rw [State.advance_cfg, hcfg]

/-- Settles O19: the cycle is the quiet one. -/
theorem idleCycleResult : Obligations.IdleCycleResult := fun _ hr hp hv =>
  ⟨_, step_of_cycle (State.cycle_of_unoffered hr hp hv), State.advance_cfg _ _,
    State.advance_block _ _⟩

theorem State.cycle_of_accepted {s : State} (ha : s.accepted = true) :
    s.cycle = exec (decode s.inp.opw) s := by
  obtain ⟨hv, hready⟩ := s.accepted_iff.mp ha
  obtain ⟨hp, hr⟩ := s.opwReady_iff.mp hready
  simp [State.cycle, hr, hp, hv]

/-- Settles O20: the cycle is `exec` of the accepted word. -/
theorem stepRunsAcceptedWord : Obligations.StepRunsAcceptedWord := by
  intro s ha
  obtain ⟨t, ht⟩ := exec_next (decode s.inp.opw) s
  exact ⟨t, ht, ha ▸ step_of_cycle ((State.cycle_of_accepted ha).trans ht)⟩

/-- A number the decoder reads fits the nine wires of the port (R70). -/
theorem decodeTableWord_eq_some {nbits w : Nat} {i : Instr} (h : decodeTableWord nbits w = some i) :
    w < 512 ∧ decode (BitVec.ofNat 9 w) = i := by
  by_cases hw : w < 512
  · simp only [decodeTableWord, decodeNumber, hw, if_true, Option.some.injEq] at h
    exact ⟨hw, h⟩
  · simp [decodeTableWord, decodeNumber, hw] at h

theorem State.withFetchWord_accepted (s : State) (nbits : Nat) {w : Nat} (hw : w < 512) :
    (s.withFetchWord nbits w).accepted = true := by
  have hv : (s.withFetchWord nbits w).inp.opwValid = true := decide_eq_true hw
  exact State.accepted_of_idle _ rfl rfl hv

/-- Settles O21: the placed word is accepted in the cycle it is placed in. -/
theorem placedWordRunsNext : Obligations.PlacedWordRunsNext := by
  intro s nbits w i h
  obtain ⟨hw, hi⟩ := decodeTableWord_eq_some h
  have hopw : (s.withFetchWord nbits w).inp.opw = BitVec.ofNat 9 w := rfl
  have hrun := stepRunsAcceptedWord _ (s.withFetchWord_accepted nbits hw)
  rwa [hopw, hi] at hrun

end Sys2Proof.Machine
end

section
/-! PROOFS. The error family: when a cycle sets an error flag, what it records, and that an
environment which keeps its duties causes no fault (60_exceptions.md R200 to R206, R243). -/

namespace Sys2Proof.Machine

/-! ### The operations that can raise an error -/

/-- Whether an operation drives with the present power from a direction (R201): `powerUsed` of a cycle
that runs the operation. -/
def usesPower (i : Instr) (op : Direction) : Bool :=
  match i with
  | .f | .r => decide (op = .stop)
  | .drive => decide (op ≠ .stop)
  | .s | .nop | .ffwd | .byte _ | .word _ => false

/-- Whether an operation is a reserved internal word (R141). -/
def isReserved : Instr → Bool
  | .word _ => true
  | .f | .r | .s | .nop | .drive | .ffwd | .byte _ => false

theorem isReserved_decode (w : OpWord) : isReserved (decode w) = decide (0x103 ≤ w.toNat) := by
  rw [Bool.eq_iff_iff, decide_eq_true_iff, ← decode_illegal_iff]
  cases decode w <;> simp [isReserved]

theorem isReserved_of_usesPower {i : Instr} {op : Direction} (h : usesPower i op = true) :
    isReserved i = false := by
  cases i with
  | word b => cases h
  | _ => rfl

theorem powerUsed_of_rst {s : State} (hr : s.inp.rst = true) : powerUsed s = false := by
  simp [powerUsed, hr]

theorem powerUsed_of_settle {s : State} (hr : s.inp.rst = false) (hp : s.block.ph = .settle) :
    powerUsed s = (decide (s.block.cnt = 0#16) && s.block.tgt.isSome) := by
  simp [powerUsed, hr, hp]

theorem powerUsed_of_idle {s : State} (hr : s.inp.rst = false) (hp : s.block.ph = .idle) :
    powerUsed s = (s.inp.opwValid && usesPower (decode s.inp.opw) s.block.op) := by
  simp only [powerUsed, hr, hp]
  cases decode s.inp.opw <;> rfl

theorem State.accepted_of_unoffered {s : State} (hv : s.inp.opwValid = false) :
    s.accepted = false := by
  simp [State.accepted, hv]

/-- A cycle never drives with the power and accepts a reserved word (R205). -/
theorem not_reserved_of_powerUsed {s : State} (h : powerUsed s = true) :
    (s.accepted && isReserved (decode s.inp.opw)) = false := by
  cases hr : s.inp.rst with
  | true => rw [State.accepted_of_rst hr, Bool.false_and]
  | false =>
    cases hp : s.block.ph with
    | settle => rw [State.accepted_of_settle hp, Bool.false_and]
    | idle =>
      rw [powerUsed_of_idle hr hp, Bool.and_eq_true] at h
      rw [isReserved_of_usesPower h.2, Bool.and_false]

/-! ### What a cycle does to the flags and the record -/

/-- The error flags and the fault record after a cycle in which the two error conditions of R200 hold
or not. -/
structure FlagsAfter (power illegal : Bool) (s u : State) : Prop where
  errPwr : u.block.errPwr = (s.block.errPwr || power)
  errIll : u.block.errIll = (s.block.errIll || illegal)
  fault : u.fault =
    if power then recordFault .powerOutOfRange s.fault
    else if illegal then recordFault .illegalWord s.fault
    else s.fault

theorem FlagsAfter.unchanged {s u : State} (hp : u.block.errPwr = s.block.errPwr)
    (hi : u.block.errIll = s.block.errIll) (hf : u.fault = s.fault) : FlagsAfter false false s u :=
  ⟨by simp [hp], by simp [hi], by simp [hf]⟩

theorem usesPower_commandFor_of_stop (d : Turn) : usesPower (commandFor d) .stop = true := by
  cases d <;> rfl

theorem usesPower_commandFor_toDirection (d e : Turn) :
    usesPower (commandFor d) e.toDirection = false := by
  cases d <;> cases e <;> rfl

theorem isReserved_commandFor (d : Turn) : isReserved (commandFor d) = false := by
  cases d <;> rfl

/-- An operation's errors: a drive that uses an out-of-range power, and a reserved word. -/
theorem ExecCase.flags {i : Instr} {s u : State} (hx : ExecCase i s u) :
    FlagsAfter (usesPower i s.block.op && powerIllegal s.inp.powerIn) (isReserved i) s u := by
  cases hx with
  | enter d hi ho =>
    subst hi
    rw [ho, usesPower_commandFor_of_stop, isReserved_commandFor, Bool.true_and]
    exact ⟨by rw [State.enter_block], by rw [State.enter_block, Bool.or_false],
      by rw [State.enter_fault]; rfl⟩
  | already d hi ho =>
    subst hi
    rw [ho, usesPower_commandFor_toDirection, isReserved_commandFor]
    exact .unchanged (by rw [s.noop_block]) (by rw [s.noop_block]) s.noop_fault
  | reversal d hi ho =>
    subst hi
    rw [ho, usesPower_commandFor_toDirection, isReserved_commandFor]
    exact .unchanged rfl rfl rfl
  | stopped hi =>
    subst hi
    exact .unchanged (by rw [s.noop_block]) (by rw [s.noop_block]) s.noop_fault
  | stop hi | reject hi | forced hi => subst hi; exact .unchanged rfl rfl rfl
  | drive hi =>
    subst hi
    exact ⟨by rw [State.quiet_block, State.drive_block]; rfl,
      by rw [State.quiet_block, State.drive_block]; exact (Bool.or_false _).symm,
      by rw [State.quiet_fault, State.drive_fault]; rfl⟩
  | quiet hi =>
    obtain ⟨rfl, -⟩ | rfl | ⟨b, rfl⟩ := hi <;> exact .unchanged rfl rfl rfl
  | illegal b hi =>
    subst hi
    exact ⟨(Bool.or_false _).symm, (Bool.or_true _).symm, rfl⟩

/-- A cycle's errors outside reset (R201, R202). -/
theorem CycleCase.flags {s u : State} (hu : CycleCase s u) (hr : s.inp.rst = false) :
    FlagsAfter (powerUsed s && powerIllegal s.inp.powerIn)
      (s.accepted && isReserved (decode s.inp.opw)) s u := by
  cases hu with
  | reset hr' => exact absurd (hr.symm.trans hr') nofun
  | complete _ hp hc =>
    have hused : decide (targetDirection s.block.tgt ≠ .stop) = powerUsed s := by
      rw [powerUsed_of_settle hr hp, hc]
      match s.block.tgt with
      | none | some .forward | some .reverse => rfl
    rw [State.accepted_of_settle hp, Bool.false_and, ← hused]
    exact ⟨by rw [State.completeSettle_block], by rw [State.completeSettle_block, Bool.or_false],
      s.completeSettle_fault⟩
  | count _ hp hc | hold _ hp hc =>
    rw [State.accepted_of_settle hp, powerUsed_of_settle hr hp, decide_eq_false hc]
    exact .unchanged rfl rfl rfl
  | run _ hp hv _ hx =>
    rw [s.accepted_of_idle hr hp hv, powerUsed_of_idle hr hp, hv]
    exact hx.flags
  | idle _ hp hv =>
    rw [State.accepted_of_unoffered hv, powerUsed_of_idle hr hp, hv]
    exact .unchanged rfl rfl rfl

/-- A step's errors outside reset, in the statements' terms. -/
theorem step_flags {s t : State} (h : step s = .next t) (hr : s.inp.rst = false) :
    FlagsAfter (powerUsed s && decide (9 < s.inp.powerIn.toNat))
      (s.accepted && decide (0x103 ≤ s.inp.opw.toNat)) s t := by
  obtain ⟨u, hu, -, rfl⟩ := step_cases h
  obtain ⟨hpwr, hill, hfault⟩ := hu.flags hr
  rw [powerIllegal_eq_decide] at hpwr hfault
  rw [isReserved_decode] at hill hfault
  exact ⟨(State.advance_block _ u).symm ▸ hpwr, (State.advance_block _ u).symm ▸ hill,
    (State.advance_fault _ u).trans hfault⟩

/-- A reset clears the flags and keeps the record (R206). -/
theorem step_of_rst_flags {s t : State} (h : step s = .next t) (hr : s.inp.rst = true) :
    t.block.errPwr = false ∧ t.block.errIll = false ∧ t.fault = s.fault := by
  cases h.symm.trans (step_of_rst hr)
  rw [State.advance_block, State.advance_fault]
  exact ⟨rfl, rfl, rfl⟩

/-! ### A drive with the power in use -/

theorem exists_toDirection {d : Direction} (h : d ≠ .stop) : ∃ t : Turn, d = t.toDirection := by
  cases d with
  | stop => exact absurd rfl h
  | forward => exact ⟨.forward, rfl⟩
  | reverse => exact ⟨.reverse, rfl⟩

/-- The block has driven in direction `d` at the present power. -/
def DrivenIn (d : Turn) (s u : State) : Prop :=
  u.block.op = d.toDirection ∧
    (u.block.dutyF, u.block.dutyR) = drivePair s.cfg d.toDirection s.inp.powerIn

theorem ExecCase.drivenIn_of_usesPower {i : Instr} {s u : State} (hx : ExecCase i s u)
    (h : usesPower i s.block.op = true) : ∃ d, DrivenIn d s u := by
  cases hx with
  | enter d => exact ⟨d, by simp [DrivenIn, State.enter_block]⟩
  | drive hi =>
    subst hi
    obtain ⟨d, hd⟩ := exists_toDirection (of_decide_eq_true h)
    exact ⟨d, by simp [DrivenIn, State.drive_block, hd]⟩
  | already d hi ho | reversal d hi ho =>
    rw [hi, ho, usesPower_commandFor_toDirection] at h
    cases h
  | stopped hi | stop hi | reject hi | forced hi | illegal b hi => subst hi; cases h
  | quiet hi => obtain ⟨rfl, -⟩ | rfl | ⟨b, rfl⟩ := hi <;> cases h

theorem CycleCase.drivenIn_of_powerUsed {s u : State} (hu : CycleCase s u)
    (h : powerUsed s = true) : ∃ d, DrivenIn d s u := by
  cases hu with
  | reset hr => simp [powerUsed_of_rst hr] at h
  | complete hr hp =>
    rw [powerUsed_of_settle hr hp, Bool.and_eq_true, Option.isSome_iff_exists] at h
    obtain ⟨-, d, hd⟩ := h
    exact ⟨d, by simp [DrivenIn, State.completeSettle_block, hd, targetDirection]⟩
  | count hr hp hc | hold hr hp hc => simp [powerUsed_of_settle hr hp, hc] at h
  | run hr hp hv _ hx =>
    rw [powerUsed_of_idle hr hp, hv] at h
    exact hx.drivenIn_of_usesPower h
  | idle hr hp hv => simp [powerUsed_of_idle hr hp, hv] at h

/-- Settles O29: the flag is `step_flags`', and the drive that uses the power maps it to 100. -/
theorem powerErrorExactlyWhenUsed : Obligations.PowerErrorExactlyWhenUsed := by
  intro s t h hr
  refine ⟨(step_flags h hr).errPwr, fun hused hp => ?_⟩
  obtain ⟨u, hu, -, rfl⟩ := step_cases h
  rw [State.advance_block]
  obtain ⟨d, hop, hpair⟩ := hu.drivenIn_of_powerUsed hused
  have h100 : mapPower s.cfg s.inp.powerIn = 100#7 := mapPower_outOfRange _ _ hp
  cases d with
  | forward =>
    rw [Turn.toDirection, drivePair_forward, h100, Prod.mk.injEq] at hpair
    exact .inl ⟨hop, hpair⟩
  | reverse =>
    rw [Turn.toDirection, drivePair_reverse, h100, Prod.mk.injEq] at hpair
    exact .inr ⟨hop, hpair⟩

/-- Settles O30, by `step_flags`. -/
theorem illegalErrorExactlyWhenAccepted : Obligations.IllegalErrorExactlyWhenAccepted :=
  fun _ _ h hr => (step_flags h hr).errIll

/-- Settles O31: the two error conditions exclude each other. -/
theorem atMostOneNewErrorPerCycle : Obligations.AtMostOneNewErrorPerCycle := by
  rintro s t h ⟨hs, ht, hs', ht'⟩
  cases hr : s.inp.rst with
  | true => simp [(step_of_rst_flags h hr).1] at ht
  | false =>
    obtain ⟨hpwr, hill, -⟩ := step_flags h hr
    rw [hpwr, hs, Bool.false_or, Bool.and_eq_true] at ht
    rw [hill, hs', Bool.false_or, ← isReserved_decode, not_reserved_of_powerUsed ht.1] at ht'
    cases ht'

/-- Settles O33: the record of `step_flags`, with a record already made first. -/
theorem faultRecordKeepsTheFirstError : Obligations.FaultRecordKeepsTheFirstError := by
  intro s t h
  cases hr : s.inp.rst with
  | true =>
    rw [(step_of_rst_flags h hr).2.2, powerUsed_of_rst hr, State.accepted_of_rst hr]
    cases s.fault <;> simp
  | false =>
    rw [(step_flags h hr).fault]
    cases s.fault <;> simp

theorem recordFault_ne_none (k : Fault) (f : Option Fault) : recordFault k f ≠ none := by
  cases f <;> nofun

/-- A flag set now is recorded now, and one set before keeps its record. -/
theorem FlagsAfter.errorsRecorded {power illegal : Bool} {s t : State}
    (h : FlagsAfter power illegal s t) (hs : ErrorsRecorded s) : ErrorsRecorded t := by
  obtain ⟨hpwr, hill, hfault⟩ := h
  rw [ErrorsRecorded, hfault]
  cases power with
  | true => exact fun _ => recordFault_ne_none _ _
  | false =>
    cases illegal with
    | true => exact fun _ => recordFault_ne_none _ _
    | false =>
      rw [hpwr, hill, Bool.or_false, Bool.or_false]
      exact hs

/-- Settles O32: a flag was set before, with its record, or it is set now and recorded now. -/
theorem stepKeepsErrorsRecorded : Obligations.StepKeepsErrorsRecorded := by
  intro s t hs h
  cases hr : s.inp.rst with
  | true =>
    obtain ⟨hpwr, hill, -⟩ := step_of_rst_flags h hr
    rintro (ht | ht)
    · exact absurd (hpwr.symm.trans ht) nofun
    · exact absurd (hill.symm.trans ht) nofun
  | false => exact (step_flags h hr).errorsRecorded hs

/-! ### A disciplined environment (R201, R202, R243) -/

theorem illegalOpw_eq (w : OpWord) : illegalOpw w = decide (0x103 ≤ w.toNat) := by
  simp [illegalOpw, BitVec.le_def]

theorem Ports.lawful_iff (p : Ports) :
    p.lawful = true ↔
      powerIllegal p.powerIn = false ∧ (p.opwValid = true → illegalOpw p.opw = false) := by
  cases hv : p.opwValid <;> simp [Ports.lawful, hv]

/-- The environment's move keeps the inputs and the script lawful. -/
theorem State.advance_lawful (a : Bool) {s : State} (hp : s.inp.lawful = true)
    (hs : ∀ l ∈ s.env.script, l.lawful = true) :
    (s.advance a).inp.lawful = true ∧ ∀ l ∈ (s.advance a).env.script, l.lawful = true := by
  unfold State.advance
  split
  · exact ⟨hp, hs⟩
  · exact feed_lawful _ _ _ _ _ _ (s.inp.lawful_iff.mp hp).1 hs

/-- Lawful inputs raise no error condition. -/
theorem step_flags_of_lawful {s t : State} (h : step s = .next t) (hr : s.inp.rst = false)
    (hp : s.inp.lawful = true) : FlagsAfter false false s t := by
  obtain ⟨hpower, hword⟩ := s.inp.lawful_iff.mp hp
  have hacc : (s.accepted && decide (0x103 ≤ s.inp.opw.toNat)) = false := by
    rw [← illegalOpw_eq, Bool.and_eq_false_imp]
    exact fun ha => hword (s.accepted_iff.mp ha).1
  have hflags := step_flags h hr
  rwa [← powerIllegal_eq_decide, hpower, Bool.and_false, hacc] at hflags

/-- Settles O45: lawful inputs set no flag and record nothing, and the environment's move keeps them
lawful. -/
theorem disciplinedHostNeverFaults : Obligations.DisciplinedHostNeverFaults := by
  rintro s t ⟨hfault, hpwr, hill, hports, hscript⟩ h
  obtain ⟨hpwr', hill', hfault'⟩ :
      t.block.errPwr = false ∧ t.block.errIll = false ∧ t.fault = s.fault := by
    cases hr : s.inp.rst with
    | true => exact step_of_rst_flags h hr
    | false =>
      obtain ⟨hp, hi, hf⟩ := step_flags_of_lawful h hr hports
      exact ⟨by simp [hp, hpwr], by simp [hi, hill], hf⟩
  obtain ⟨u, -, ⟨-, hinp, henv⟩, rfl⟩ := step_cases h
  obtain ⟨hports', hscript'⟩ :=
    State.advance_lawful s.accepted (hinp ▸ hports) (s := u) (henv ▸ hscript)
  exact ⟨hfault'.trans hfault, hpwr', hill', hports', hscript'⟩

/-- Settles O46: placing a script is the environment's move, from the program's levels or the
host's. -/
theorem lawfulScriptIsDisciplined : Obligations.LawfulScriptIsDisciplined := by
  rintro s script ⟨hfault, hpwr, hill, -, -⟩ hscript
  obtain ⟨hload, hload'⟩ := feed_lawful s.cfg s.block script s.env.host none
    { s.inp with powerIn := 0#4, manual := false } rfl hscript
  obtain ⟨hhost, hhost'⟩ := feed_lawful s.cfg s.block script s.env.host s.env.timeBase
    (s.env.host.levels s.inp) s.env.host.levels_legal hscript
  exact ⟨⟨hfault, hpwr, hill, hload, hload'⟩, ⟨hfault, hpwr, hill, hhost, hhost'⟩⟩

end Sys2Proof.Machine
end

section
/-! PROOFS. Who writes the direction, the duties and the phase, and what each event tells
(10_state.md R22 to R28, 41_direction_fsm.md R152, 60_exceptions.md R204). -/

namespace Sys2Proof.Machine

/-! ### The direction (R22, R152) -/

/-- Of the operations, only F, R, S and FFWD change the direction. -/
theorem ExecCase.mem_of_op_ne {i : Instr} {s u : State} (hx : ExecCase i s u)
    (hop : u.block.op ≠ s.block.op) : i ∈ [Instr.f, .r, .s, .ffwd] := by
  cases hx with
  | enter d hi | reversal d hi => cases d <;> simp [hi, commandFor]
  | stop hi | forced hi => simp [hi]
  | already | stopped => simp [State.noop_block] at hop
  | reject | quiet | illegal => simp at hop
  | drive => simp [State.drive_block] at hop

/-- Settles O24, by the kind of cycle and, in one that accepts a word, by the operation. -/
theorem onlyCommandsChangeDirection : Obligations.OnlyCommandsChangeDirection := by
  intro s t h hop
  obtain ⟨u, hu, -, rfl⟩ := step_cases h
  rw [State.advance_block] at hop
  cases hu with
  | reset hr => exact .inl hr
  | complete _ hp hc => exact .inr (.inl ⟨hp, hc⟩)
  | run hr hp hv _ hx => exact .inr (.inr ⟨s.accepted_of_idle hr hp hv, hx.mem_of_op_ne hop⟩)
  | count | hold | idle => simp at hop

theorem Turn.toDirection_ne_stop (d : Turn) : d.toDirection ≠ .stop := by cases d <;> nofun

/-- An operation changes the direction from STOP or to STOP. -/
theorem ExecCase.stop_of_op_ne {i : Instr} {s u : State} (hx : ExecCase i s u)
    (hop : u.block.op ≠ s.block.op) : s.block.op = .stop ∨ u.block.op = .stop := by
  cases hx with
  | enter _ _ ho | forced _ ho => exact .inl ho
  | reversal | stop => exact .inr rfl
  | already | stopped => simp [State.noop_block] at hop
  | reject | quiet | illegal => simp at hop
  | drive => simp [State.drive_block] at hop

/-- A cycle changes the direction from STOP or to STOP: a settle phase is in STOP (I2). -/
theorem CycleCase.stop_of_op_ne {s u : State} (hu : CycleCase s u) (hinv : BlockInv s.cfg s.block)
    (hop : u.block.op ≠ s.block.op) : s.block.op = .stop ∨ u.block.op = .stop := by
  cases hu with
  | reset => exact .inr rfl
  | complete _ hp => exact .inl (hinv.settling hp).1
  | run _ _ _ _ hx => exact hx.stop_of_op_ne hop
  | count | hold | idle => simp at hop

/-- Settles O27: between FORWARD and REVERSE the direction would change with STOP on neither side. -/
theorem reversalPassesThroughStop : Obligations.ReversalPassesThroughStop := by
  intro s t hinv h
  obtain ⟨u, hu, -, rfl⟩ := step_cases h
  have hstop := hu.stop_of_op_ne hinv
  rw [State.advance_block]
  constructor
  all_goals
    rintro ⟨hs, hu'⟩
    simp [hs, hu'] at hstop

/-! ### The duties while the direction stays (R110) -/

/-- Of the operations that leave the direction as it is, only DRIVE changes a duty register. -/
theorem ExecCase.drive_of_reapplied {i : Instr} {s u : State} (hx : ExecCase i s u)
    (hop : u.block.op = s.block.op)
    (hd : u.block.dutyF ≠ s.block.dutyF ∨ u.block.dutyR ≠ s.block.dutyR) : i = .drive := by
  cases hx with
  | drive hi => exact hi
  | enter d _ ho =>
    rw [State.enter_block, ho] at hop
    exact absurd hop d.toDirection_ne_stop
  | reversal d _ ho => exact absurd (hop.trans ho).symm d.opposite.toDirection_ne_stop
  | stop _ _ ho => exact absurd hop.symm ho
  | already | stopped => simp [State.noop_block] at hd
  | reject | forced | quiet | illegal => simp at hd

/-- Settles O26. A reset that leaves the direction finds it in STOP, with the duties 0 (I4); a settle
completion leaves STOP for its target (I2). -/
theorem onlyDriveReappliesPower : Obligations.OnlyDriveReappliesPower := by
  intro s t hinv h hop hd
  obtain ⟨u, hu, -, rfl⟩ := step_cases h
  rw [State.advance_block] at hop hd
  cases hu with
  | reset =>
    obtain ⟨hf, hr⟩ := hinv.stopped hop.symm
    simp [hf, hr, Block.reset] at hd
  | complete _ hp =>
    obtain ⟨hstop, htgt, -⟩ := hinv.settling hp
    obtain ⟨d, hd⟩ := Option.ne_none_iff_exists'.mp htgt
    rw [State.completeSettle_block, hd, hstop] at hop
    exact absurd hop d.toDirection_ne_stop
  | run hr hp hv _ hx => exact ⟨s.accepted_of_idle hr hp hv, hx.drive_of_reapplied hop hd⟩
  | count | hold | idle => simp at hd

/-! ### The entry to the settle phase (R23, R137) -/

/-- Of the operations, only a command for the opposite direction enters the settle phase. -/
theorem ExecCase.reversal_of_settle {i : Instr} {s u : State} (hx : ExecCase i s u)
    (hp : s.block.ph = .idle) (hs : u.block.ph = .settle) :
    ∃ d, i = commandFor d ∧ s.block.op = d.opposite.toDirection ∧ u = s.beginReversal d := by
  cases hx with
  | reversal d hi ho => exact ⟨d, hi, ho, rfl⟩
  | enter => simp [State.enter_block, hp] at hs
  | already | stopped => simp [State.noop_block, hp] at hs
  | stop => simp [State.stopMotor_block, hp] at hs
  | drive => simp [State.drive_block, hp] at hs
  | reject | forced | quiet | illegal => simp [hp] at hs

/-- Settles O28: the accepted word is the command, and `begin_reversal` gives the rest. -/
theorem settleEnteredOnlyByReversal : Obligations.SettleEnteredOnlyByReversal := by
  intro s t h hp hs
  obtain ⟨u, hu, -, rfl⟩ := step_cases h
  rw [State.advance_block] at hs ⊢
  cases hu with
  | reset => cases hs
  | complete _ hp' | count _ hp' | hold _ hp' => exact absurd (hp.symm.trans hp') nofun
  | idle => simp [hp] at hs
  | run hr _ hv _ hx =>
    obtain ⟨d, hi, ho, rfl⟩ := hx.reversal_of_settle hp hs
    refine ⟨s.accepted_of_idle hr hp hv, rfl, rfl, rfl, rfl, ?_⟩
    cases d with
    | forward => exact .inl ⟨hi, ho, rfl⟩
    | reverse => exact .inr ⟨hi, ho, rfl⟩

/-! ### The events (R28, R204) -/

theorem Event.code_injective : Function.Injective Event.code := by
  intro a b
  cases a <;> cases b <;> simp [Event.code]

theorem Event.code_legal (e : Event) : 1#4 ≤ e.code ∧ e.code ≤ 7#4 := by cases e <;> decide

/-- R204's meaning of an event, for the state `s` before the cycle and the block `b` after it. -/
def EventMeans (s : State) (b : Block) : Event → Prop
  | .fwd => s.block.op = .stop ∧ b.op = .forward
  | .rev => s.block.op = .stop ∧ b.op = .reverse
  | .stop => s.block.op ≠ .stop ∧ b.op = .stop ∧ b.ph = .idle ∧ s.inp.manual = true
  | .settle => s.block.op ≠ .stop ∧ b.op = .stop ∧ b.ph = .settle
  | .forcedFwd =>
    s.block.op = .stop ∧ b.op = .forward ∧ b.dutyF = 0#7 ∧ b.dutyR = 0#7
  | .noChange => b.op = s.block.op ∧ s.cfg.notifyNoop = true
  | .reject => b.op = s.block.op ∧ s.inp.manual = false

/-- What a cycle leaves in the event register: no event, the direction then being as it was unless the
cycle was a reset; or an event, which then tells what happened. -/
inductive EventCase (s : State) (b : Block) : Prop where
  | silent (hv : b.evtV = false) (hc : b.evtCode = 0#4)
      (hop : s.inp.rst = false → b.op = s.block.op)
  | told (e : Event) (hv : b.evtV = true) (hc : b.evtCode = e.code)
      (hmeans : BlockInv s.cfg s.block → EventMeans s b e)

theorem Turn.event_means {s : State} {b : Block} (d : Turn) (ho : s.block.op = .stop)
    (hb : b.op = d.toDirection) : EventMeans s b d.event := by
  cases d <;> exact ⟨ho, hb⟩

/-- A no-op tells of itself exactly when the parameter asks for it (R136). -/
theorem State.noop_event (s : State) : EventCase s s.noop.block := by
  rw [State.noop_eq]
  cases hn : s.cfg.notifyNoop with
  | false => exact .silent rfl rfl fun _ => rfl
  | true => exact .told .noChange rfl rfl fun _ => ⟨rfl, hn⟩

/-- An operation's event, in IDLE. -/
theorem ExecCase.event {i : Instr} {s u : State} (hx : ExecCase i s u) (hp : s.block.ph = .idle) :
    EventCase s u.block := by
  cases hx with
  | enter d _ ho =>
    exact .told d.event rfl rfl fun _ => d.event_means ho (by rw [State.enter_block])
  | already | stopped => exact s.noop_event
  | reversal d _ ho =>
    exact .told .settle rfl rfl fun _ => ⟨ho ▸ d.opposite.toDirection_ne_stop, rfl, rfl⟩
  | stop _ hm ho => exact .told .stop rfl rfl fun _ => ⟨ho, rfl, hp, hm⟩
  | reject _ hm => exact .told .reject rfl rfl fun _ => ⟨rfl, hm⟩
  | forced _ ho => exact .told .forcedFwd rfl rfl fun hinv => ⟨ho, rfl, hinv.stopped ho⟩
  | drive => exact .silent rfl rfl fun _ => by simp [State.drive_block]
  | quiet | illegal => exact .silent rfl rfl fun _ => rfl

theorem completionEvent_some (d : Turn) : completionEvent (some d) = d.event := by cases d <;> rfl

/-- A cycle's event. -/
theorem CycleCase.event {s u : State} (hu : CycleCase s u) : EventCase s u.block := by
  cases hu with
  | reset hr => exact .silent rfl rfl fun hr' => absurd (hr.symm.trans hr') nofun
  | complete _ hp =>
    refine .told (completionEvent s.block.tgt) rfl rfl fun hinv => ?_
    obtain ⟨hstop, htgt, -⟩ := hinv.settling hp
    obtain ⟨d, hd⟩ := Option.ne_none_iff_exists'.mp htgt
    rw [State.completeSettle_block, hd, completionEvent_some]
    exact d.event_means hstop rfl
  | count | hold | idle => exact .silent rfl rfl fun _ => rfl
  | run _ hp _ _ hx => exact hx.event hp

theorem step_event {s t : State} (h : step s = .next t) : EventCase s t.block := by
  obtain ⟨u, hu, -, rfl⟩ := step_cases h
  rw [State.advance_block]
  exact hu.event

/-- Settles O38: the codes in use are the events' codes. -/
theorem eventAlwaysLegal : Obligations.EventAlwaysLegal := by
  intro s t h
  cases step_event h with
  | silent hv hc => exact .inl ⟨hv, hc⟩
  | told e hv hc => exact .inr ⟨hv, hc ▸ e.code_legal⟩

/-- A code in the event register is that of an event, with its meaning. -/
theorem EventCase.means {s : State} {b : Block} (h : EventCase s b) (hinv : BlockInv s.cfg s.block)
    {e : Event} (hc : b.evtCode = e.code) : EventMeans s b e := by
  cases h with
  | silent _ h0 => exact absurd (h0.symm.trans hc) (by cases e <;> decide)
  | told e' _ he hmeans => exact Event.code_injective (he.symm.trans hc) ▸ hmeans hinv

/-- Settles O39, event by event. -/
theorem eventTellsWhatHappened : Obligations.EventTellsWhatHappened := fun _ _ hinv h =>
  have told {e : Event} := (step_event h).means hinv (e := e)
  ⟨told (e := .fwd), told (e := .rev), told (e := .stop), told (e := .settle),
    told (e := .forcedFwd), told (e := .noChange), told (e := .reject)⟩

/-- Settles O40: a silent cycle outside reset leaves the direction. -/
theorem directionChangeIsNotified : Obligations.DirectionChangeIsNotified := by
  intro s t h hr hop
  cases step_event h with
  | silent _ _ hsame => exact absurd (hsame hr) hop
  | told _ hv => exact hv

end Sys2Proof.Machine
end

section
/-! PROOFS. What the block reads of its ports: the mode level only for S, the power level only for a
drive that uses it, the tick only in the settle phase (40_duty_mapper.md R104, 41_direction_fsm.md R130
and R134). -/

namespace Sys2Proof.Machine

/-- A drive in STOP does not read the power (R104). -/
theorem State.drive_withPorts_of_used (d : Direction) (s : State) {q : Ports}
    (hp : d ≠ .stop → q.powerIn = s.inp.powerIn) :
    ({ s with inp := q } : State).drive d = { s.drive d with inp := q } := by
  cases d with
  | stop => rfl
  | forward | reverse => exact s.drive_withPorts _ (hp nofun)

theorem State.noop_withPorts (s : State) (q : Ports) :
    ({ s with inp := q } : State).noop = { s.noop with inp := q } := by
  simp only [State.noop]
  split <;> rfl

theorem State.enter_withPorts (d : Turn) (s : State) {q : Ports}
    (hp : q.powerIn = s.inp.powerIn) :
    ({ s with inp := q } : State).enter d = { s.enter d with inp := q } := by
  simp only [State.enter, State.setOp_withPorts]
  rw [State.drive_withPorts _ (s.setOp d.toDirection) hp]
  rfl

/-- Seen from a command, a direction is STOP, the command's own or the opposite. -/
theorem Turn.direction_cases (d : Turn) (o : Direction) :
    o = .stop ∨ o = d.toDirection ∨ o = d.opposite.toDirection := by
  cases d <;> cases o <;> decide

/-- F and R read the power only in STOP, and never the mode (R131, R132). -/
theorem exec_commandFor_withPorts (d : Turn) (s : State) {q : Ports}
    (hp : s.block.op = .stop → q.powerIn = s.inp.powerIn) :
    blockAfter (exec (commandFor d) { s with inp := q }) = blockAfter (exec (commandFor d) s) := by
  obtain ho | ho | ho := d.direction_cases s.block.op
  · rw [exec_commandFor_of_stop d ho, exec_commandFor_of_stop (s := { s with inp := q }) d ho,
      s.enter_withPorts d (hp ho)]
    rfl
  · rw [exec_commandFor_of_same d ho, exec_commandFor_of_same (s := { s with inp := q }) d ho,
      s.noop_withPorts]
    rfl
  · rw [exec_commandFor_of_opposite d ho,
      exec_commandFor_of_opposite (s := { s with inp := q }) d ho]
    rfl

/-- S reads the mode (R133). -/
theorem exec_s_withPorts (s : State) {q : Ports} (hm : q.manual = s.inp.manual) :
    blockAfter (exec .s { s with inp := q }) = blockAfter (exec .s s) := by
  cases hm' : s.inp.manual with
  | false =>
    rw [exec_s_of_auto hm', exec_s_of_auto (s := { s with inp := q }) (hm.trans hm')]
    rfl
  | true =>
    by_cases ho : s.block.op = .stop
    · rw [exec_s_of_stop hm' ho, exec_s_of_stop (s := { s with inp := q }) (hm.trans hm') ho,
        s.noop_withPorts]
      rfl
    · rw [exec_s_of_moving hm' ho, exec_s_of_moving (s := { s with inp := q }) (hm.trans hm') ho]
      rfl

/-- FFWD reads no port (R138). -/
theorem exec_ffwd_withPorts (s : State) (q : Ports) :
    blockAfter (exec .ffwd { s with inp := q }) = blockAfter (exec .ffwd s) := by
  by_cases ho : s.block.op = .stop
  · rw [exec_ffwd_of_stop ho, exec_ffwd_of_stop (s := { s with inp := q }) ho]
    rfl
  · rw [exec_ffwd_of_moving ho, exec_ffwd_of_moving (s := { s with inp := q }) ho]
    rfl

/-- An operation reads the mode only if it is S, and the power only if it uses it. -/
theorem exec_withPorts {i : Instr} {s : State} {q : Ports}
    (hm : i = .s → q.manual = s.inp.manual)
    (hp : usesPower i s.block.op = true → q.powerIn = s.inp.powerIn) :
    blockAfter (exec i { s with inp := q }) = blockAfter (exec i s) := by
  cases i with
  | f => exact exec_commandFor_withPorts .forward s fun ho => hp (decide_eq_true ho)
  | r => exact exec_commandFor_withPorts .reverse s fun ho => hp (decide_eq_true ho)
  | s => exact exec_s_withPorts s (hm rfl)
  | drive =>
    simp only [exec, execDrive]
    rw [s.drive_withPorts_of_used s.block.op fun ho => hp (decide_eq_true ho)]
    rfl
  | ffwd => exact exec_ffwd_withPorts s q
  | nop | byte b | word b => rfl

/-- A settle step reads the tick and, in a completion with a target, the power (R150). -/
theorem State.settleStep_blockAfter_withPorts {s : State} {q : Ports} (ht : q.tick = s.inp.tick)
    (hp : s.block.cnt = 0#16 → s.block.tgt.isSome = true → q.powerIn = s.inp.powerIn) :
    blockAfter (.next ({ s with inp := q } : State).settleStep) =
      blockAfter (.next s.settleStep) := by
  simp only [State.settleStep, ht]
  split
  next hc =>
    have hused : targetDirection s.block.tgt ≠ .stop → q.powerIn = s.inp.powerIn := fun hd =>
      hp hc (Option.isSome_iff_ne_none.mpr fun hn => hd (by rw [hn]; rfl))
    simp only [State.completeSettle, State.setOp_withPorts]
    rw [State.drive_withPorts_of_used _ (s.setOp (targetDirection s.block.tgt)) hused]
    rfl
  next => split <;> rfl

/-- What a cycle reads of its ports besides `rst` and the offered word. -/
theorem cycle_withPorts {s : State} {q : Ports} (hqr : q.rst = s.inp.rst)
    (hqv : q.opwValid = s.inp.opwValid) (hqw : q.opw = s.inp.opw)
    (hqt : s.block.ph = .settle → q.tick = s.inp.tick)
    (hqm : s.accepted = true → decode s.inp.opw = .s → q.manual = s.inp.manual)
    (hqp : powerUsed s = true → q.powerIn = s.inp.powerIn) :
    blockAfter ({ s with inp := q } : State).cycle = blockAfter s.cycle := by
  obtain ⟨hr, hc⟩ | ⟨hr, hp, hc⟩ | ⟨hr, hp, hv, hc⟩ | ⟨hr, hp, hv, hc⟩ := s.cycle_cases
  · rw [hc, State.cycle_of_rst (s := { s with inp := q }) (hqr.trans hr)]
    rfl
  · rw [hc, State.cycle_of_settle (s := { s with inp := q }) (hqr.trans hr) hp]
    refine State.settleStep_blockAfter_withPorts (hqt hp) fun h0 htgt => hqp ?_
    simp [powerUsed_of_settle hr hp, h0, htgt]
  · have ha := s.accepted_of_idle hr hp hv
    have ha' : ({ s with inp := q } : State).accepted = true :=
      State.accepted_of_idle _ (hqr.trans hr) hp (hqv.trans hv)
    rw [State.cycle_of_accepted ha, State.cycle_of_accepted ha', hqw]
    refine exec_withPorts (hqm ha) fun hused => hqp ?_
    rw [powerUsed_of_idle hr hp, hv, hused, Bool.and_self]
  · rw [hc, State.cycle_of_unoffered (s := { s with inp := q }) (hqr.trans hr) hp (hqv.trans hv)]
    rfl

/-- Settles O35, with the mode level the only port that changes. -/
theorem onlyStopReadsManual : Obligations.OnlyStopReadsManual := by
  refine ⟨fun i s m hi => ?_, fun s m hns => ?_⟩
  · exact exec_withPorts (q := { s.inp with manual := m }) (absurd · hi) fun _ => rfl
  · rw [blockAfter_step, blockAfter_step]
    exact cycle_withPorts (q := { s.inp with manual := m }) rfl rfl rfl (fun _ => rfl)
      (fun ha hd => absurd hd (hns ha)) fun _ => rfl

/-- The operations that use the power, as the statement lists them. -/
theorem usesPower_eq_true_iff (i : Instr) (op : Direction) :
    usesPower i op = true ↔ ((i = .f ∨ i = .r) ∧ op = .stop) ∨ (i = .drive ∧ op ≠ .stop) := by
  cases i <;> simp [usesPower]

/-- Settles O36, with the power level the only port that changes. -/
theorem onlyDrivesReadPower : Obligations.OnlyDrivesReadPower := by
  refine ⟨fun i s p hcommand hdrive => ?_, fun s p hunused => ?_⟩
  · refine exec_withPorts (q := { s.inp with powerIn := p }) (fun _ => rfl) fun hused => ?_
    obtain ⟨hi, ho⟩ | ⟨hi, ho⟩ := (usesPower_eq_true_iff i s.block.op).mp hused
    · exact absurd ho (hcommand hi)
    · exact absurd (hdrive hi) ho
  · rw [blockAfter_step, blockAfter_step]
    exact cycle_withPorts (q := { s.inp with powerIn := p }) rfl rfl rfl (fun _ => rfl)
      (fun _ _ => rfl) fun hused => absurd (hunused.symm.trans hused) nofun

/-- Settles O37, with the tick the only port that changes. -/
theorem tickIgnoredInIdle : Obligations.TickIgnoredInIdle := by
  intro s b hp
  rw [blockAfter_step, blockAfter_step]
  exact cycle_withPorts (q := { s.inp with tick := b }) rfl rfl rfl
    (fun hs => absurd (hp.symm.trans hs) nofun) (fun _ _ => rfl) fun _ => rfl

end Sys2Proof.Machine
end

section
/-! PROOFS. The settle delay over an input sequence, and repeated commands (41_direction_fsm.md R151 to
R156, 60_exceptions.md R207). -/

namespace Sys2Proof.Machine

/-- A run is extended by a step at its end. -/
theorem run_snoc {n : Nat} {s t : State} (h : run n s = .next t) : run (n + 1) s = step t := by
  induction n generalizing s with
  | zero =>
    cases h
    obtain ⟨u, hu⟩ := everyStepAnswersNext t
    rw [run_succ 0 hu, run_zero, hu]
  | succ n ih =>
    obtain ⟨v, hv⟩ := everyStepAnswersNext s
    rw [run_succ n hv] at h
    rw [run_succ (n + 1) hv, ih h]

/-! ### Counting ticks -/

theorem tickCount_cons (p : Ports) (ps : List Ports) :
    tickCount (p :: ps) = p.tick.toNat + tickCount ps := by
  cases h : p.tick <;> simp [tickCount, h, Nat.add_comm]

theorem tickCount_eq_zero {ps : List Ports} (h : ∀ p ∈ ps, p.tick = false) : tickCount ps = 0 :=
  List.countP_eq_zero.mpr fun p hp => by simp [h p hp]

/-- The block after the cycles `wait` of a settle phase whose count they do not pass. -/
def Block.waited (wait : List Ports) (b : Block) : Block :=
  if wait = [] then b else { b.quiet with cnt := b.cnt - BitVec.ofNat 16 (tickCount wait) }

@[simp] theorem Block.waited_op (wait : List Ports) (b : Block) : (b.waited wait).op = b.op := by
  unfold Block.waited; split <;> rfl
@[simp] theorem Block.waited_ph (wait : List Ports) (b : Block) : (b.waited wait).ph = b.ph := by
  unfold Block.waited; split <;> rfl
@[simp] theorem Block.waited_tgt (wait : List Ports) (b : Block) : (b.waited wait).tgt = b.tgt := by
  unfold Block.waited; split <;> rfl
@[simp] theorem Block.waited_dutyF (wait : List Ports) (b : Block) :
    (b.waited wait).dutyF = b.dutyF := by
  unfold Block.waited; split <;> rfl
@[simp] theorem Block.waited_dutyR (wait : List Ports) (b : Block) :
    (b.waited wait).dutyR = b.dutyR := by
  unfold Block.waited; split <;> rfl

theorem Block.waited_cnt (wait : List Ports) (b : Block) :
    (b.waited wait).cnt = b.cnt - BitVec.ofNat 16 (tickCount wait) := by
  unfold Block.waited
  split
  next h => simp [h, tickCount]
  next => rfl

theorem Block.waited_evtV {wait : List Ports} (h : wait ≠ []) (b : Block) :
    (b.waited wait).evtV = false := by
  simp [Block.waited, h]

theorem Block.waited_cons (p : Ports) (ps : List Ports) (b : Block) :
    Block.waited (p :: ps) b =
      Block.waited ps { b.quiet with cnt := b.cnt - BitVec.ofNat 16 p.tick.toNat } := by
  cases ps with
  | nil =>
    simp only [Block.waited, reduceCtorEq, if_false, if_true, tickCount_cons p]
    rfl
  | cons q qs =>
    simp only [Block.waited, reduceCtorEq, if_false, tickCount_cons p, BitVec.ofNat_add, sub_sub]
    rfl

/-- A settle step that does not complete counts the tick of its cycle, if there is one (R150). -/
theorem State.settleStep_block_of_counting {s : State} (hc : s.block.cnt ≠ 0#16) :
    s.settleStep.block =
      { s.block.quiet with cnt := s.block.cnt - BitVec.ofNat 16 s.inp.tick.toNat } := by
  obtain ⟨h0, -⟩ | ⟨-, ht, e⟩ | ⟨-, ht, e⟩ := s.settleStep_cases
  · exact absurd h0 hc
  · rw [e, ht]; rfl
  · rw [e, ht]; simp [Block.quiet]

theorem toNat_count_sub_tick {c : Count} (hc : c ≠ 0#16) (k : Bool) :
    (c - BitVec.ofNat 16 k.toNat).toNat = c.toNat - k.toNat := by
  cases k
  · simp
  · simp only [Bool.toNat_true]; bv_omega

/-- A settle phase that is given the cycles `wait`, with fewer ticks than it has to count before the
last of them, waits through all of them (R151). -/
theorem run_waiting (wait later : List Ports) {s : State} (hp : s.block.ph = .settle)
    (hr : ∀ p ∈ wait, p.rst = false)
    (hticks : ∀ n < wait.length, tickCount (wait.take n) < s.block.cnt.toNat) :
    ∃ t : State, run wait.length (s.withInputs (wait ++ later)) = .next (t.withInputs later) ∧
      t.cfg = s.cfg ∧ t.block = s.block.waited wait := by
  induction wait generalizing s with
  | nil => exact ⟨s, rfl, rfl, rfl⟩
  | cons p ps ih =>
    have hc : s.block.cnt ≠ 0#16 := by
      intro h0
      simpa [h0, tickCount] using hticks 0 (by simp)
    have hcycle := State.cycle_of_settle (s := s.withInputs (p :: (ps ++ later)))
      (hr p (by simp)) (by rw [State.withInputs_block, hp])
    have hblock := State.settleStep_block_of_counting
      (s := s.withInputs (p :: (ps ++ later))) (by rwa [State.withInputs_block])
    have hcfg := (s.withInputs (p :: (ps ++ later))).settleStep_surroundings.1
    rw [State.withInputs_block, State.withInputs_inp] at hblock
    rw [State.withInputs_cfg] at hcfg
    generalize (s.withInputs (p :: (ps ++ later))).settleStep = v at hcycle hblock hcfg
    obtain ⟨t, hrun, hcfg', hblock'⟩ := ih (s := v) (by rw [hblock]; exact hp)
      (fun q hq => hr q (by simp [hq])) fun n hn => by
        have hlt := hticks (n + 1) (by simpa using hn)
        rw [List.take_succ_cons, tickCount_cons] at hlt
        rw [hblock]
        show _ < (s.block.cnt - BitVec.ofNat 16 p.tick.toNat).toNat
        rw [toNat_count_sub_tick hc]
        omega
    refine ⟨t, ?_, hcfg'.trans hcfg, ?_⟩
    · exact (run_succ ps.length (step_withInputs hcycle)).trans hrun
    · rw [hblock', hblock, Block.waited_cons]

/-- A settle phase with no tick left to count ends in the next cycle (R150). -/
theorem step_completes_input {s : State} {d : Turn} {p : Ports} (later : List Ports)
    (hp : s.block.ph = .settle) (hd : s.block.tgt = some d) (hc : s.block.cnt = 0#16)
    (hr : p.rst = false) :
    ∃ v, step (s.withInputs (p :: later)) = .next v ∧
      v.block.op = d.toDirection ∧ v.block.ph = .idle ∧ v.block.tgt = none ∧
      v.block.cnt = 0#16 ∧
      (v.block.dutyF, v.block.dutyR) = drivePair s.cfg d.toDirection p.powerIn ∧
      v.block.evtV = true ∧ v.block.evtCode = (if d = .forward then 0x1#4 else 0x2#4) := by
  have hp' : (s.withInputs (p :: later)).block.ph = .settle := by rw [State.withInputs_block, hp]
  refine ⟨_, step_of_settle hr hp', ?_⟩
  have hdone :
      (s.withInputs (p :: later)).settleStep = (s.withInputs (p :: later)).completeSettle := by
    rw [State.settleStep, State.withInputs_block, if_pos hc]
  rw [State.advance_block, hdone, State.completeSettle_block, State.withInputs_block,
    State.withInputs_cfg, State.withInputs_inp, hd, hc]
  refine ⟨rfl, rfl, rfl, rfl, rfl, rfl, ?_⟩
  cases d <;> rfl

/-- Settles O47: the block waits through every part of `wait`, and after all of it the count is 0. -/
theorem settleCompletesAfterItsTicks : Obligations.SettleCompletesAfterItsTicks := by
  intro s d wait last later hinv hp hd hr hlast htotal hticks
  obtain ⟨hstop, -, hf, hrev⟩ := hinv.settling hp
  constructor
  · intro n hn
    have hpart : ∀ m < (wait.take n).length,
        tickCount ((wait.take n).take m) < s.block.cnt.toNat := by
      intro m hm
      rw [List.length_take_of_le hn] at hm
      rw [List.take_take, Nat.min_eq_left hm.le]
      exact hticks m (hm.trans_le hn)
    obtain ⟨t, hrun, -, hblock⟩ := run_waiting (wait.take n) (wait.drop n ++ last :: later) hp
      (fun p hmem => hr p (List.mem_of_mem_take hmem)) hpart
    rw [← List.append_assoc, List.take_append_drop, List.length_take_of_le hn] at hrun
    have hsettle : (t.withInputs (wait.drop n ++ last :: later)).block.ph = .settle := by
      rw [State.withInputs_block, hblock, Block.waited_ph, hp]
    refine ⟨_, hrun, ?_⟩
    simp only [State.opwReady_of_settle hsettle, State.withInputs_block, hblock, Block.waited_op,
      Block.waited_ph, Block.waited_tgt, Block.waited_dutyF, Block.waited_dutyR, hstop, hf, hrev, hp,
      hd, true_and]
    refine fun h0 => Block.waited_evtV ?_ _
    rw [← List.length_pos_iff, List.length_take_of_le hn]
    exact Nat.pos_of_ne_zero h0
  · obtain ⟨t, hrun, hcfg, hblock⟩ := run_waiting wait (last :: later) hp hr hticks
    rw [run_snoc hrun, ← hcfg]
    refine step_completes_input later ?_ ?_ ?_ hlast
    · rw [hblock, Block.waited_ph, hp]
    · rw [hblock, Block.waited_tgt, hd]
    · rw [hblock, Block.waited_cnt, htotal, BitVec.ofNat_toNat, BitVec.setWidth_eq, sub_self]
      rfl

/-- Settles O48: without ticks nothing is counted. -/
theorem settleHangsWithoutTicks : Obligations.SettleHangsWithoutTicks := by
  intro s wait hp hc hwait hne
  have hnone : tickCount wait = 0 := tickCount_eq_zero fun p hmem => (hwait p hmem).2
  obtain ⟨t, hrun, -, hblock⟩ := run_waiting wait [] hp (fun p hmem => (hwait p hmem).1)
    fun n _ => by
      rw [tickCount_eq_zero fun p hmem => (hwait p (List.mem_of_mem_take hmem)).2]
      exact Nat.pos_of_ne_zero fun h0 => hc (BitVec.eq_of_toNat_eq h0)
  rw [List.append_nil] at hrun
  refine ⟨_, hrun, ?_⟩
  rw [State.withInputs_block, hblock, Block.waited, if_neg hne, hnone]
  simp [Block.quiet]

/-! ### A command and its repetition (R156) -/

/-- F and R: the direction holds or its reversal is under way. -/
theorem exec_commandFor_reaches (d : Turn) (s : State) :
    ∃ t, exec (commandFor d) s = .next t ∧
      (t.block.op = d.toDirection ∨ (t.block.ph = .settle ∧ t.block.tgt = some d)) := by
  obtain ho | ho | ho := d.direction_cases s.block.op
  · exact ⟨_, exec_commandFor_of_stop d ho, .inl (by rw [State.enter_block])⟩
  · exact ⟨_, exec_commandFor_of_same d ho, .inl (by rw [State.noop_block, ho])⟩
  · exact ⟨_, exec_commandFor_of_opposite d ho, .inr ⟨rfl, rfl⟩⟩

theorem exec_s_reaches {s : State} (hm : s.inp.manual = true) :
    ∃ t, exec .s s = .next t ∧ t.block.op = .stop := by
  by_cases ho : s.block.op = .stop
  · exact ⟨_, exec_s_of_stop hm ho, by rw [State.noop_block, ho]⟩
  · exact ⟨_, exec_s_of_moving hm ho, rfl⟩

/-- Settles O49, command by command. -/
theorem commandReachesItsDirection : Obligations.CommandReachesItsDirection := fun s =>
  ⟨exec_commandFor_reaches .forward s, exec_commandFor_reaches .reverse s, exec_s_reaches⟩

/-- What a repeated command may leave of the state `t`: another event. -/
def SameButEvent (t u : State) : Prop :=
  u.fault = t.fault ∧ u.block = { t.block with evtV := u.block.evtV, evtCode := u.block.evtCode }

theorem State.noop_sameButEvent (t : State) : SameButEvent t t.noop :=
  ⟨t.noop_fault, by rw [State.noop_block]⟩

theorem exec_commandFor_repeat (d : Turn) {s t : State} (h : exec (commandFor d) s = .next t)
    (hp : t.block.ph = .idle) : ∃ u, exec (commandFor d) t = .next u ∧ SameButEvent t u := by
  obtain ⟨t', ht', hreach⟩ := exec_commandFor_reaches d s
  cases h.symm.trans ht'
  obtain ho | ⟨hs, -⟩ := hreach
  · exact ⟨_, exec_commandFor_of_same d ho, t.noop_sameButEvent⟩
  · exact absurd (hp.symm.trans hs) nofun

theorem exec_s_repeat {s t : State} (h : exec .s s = .next t) :
    ∃ u, exec .s t = .next u ∧ SameButEvent t u := by
  cases hm : t.inp.manual with
  | false => exact ⟨_, exec_s_of_auto hm, rfl, rfl⟩
  | true =>
    have hinp : t.inp = s.inp := (exec_surroundings h).2.1
    obtain ⟨t', ht', ho⟩ := exec_s_reaches (s := s) (hinp ▸ hm)
    cases h.symm.trans ht'
    exact ⟨_, exec_s_of_stop hm ho, t.noop_sameButEvent⟩

/-- Settles O50, command by command: in its direction F or R is a no-op, and so is S once stopped or
rejected. -/
theorem repeatedCommandChangesNothing : Obligations.RepeatedCommandChangesNothing := by
  intro i s t hi _ h hp
  obtain rfl | rfl | rfl : i = .f ∨ i = .r ∨ i = .s := by simpa using hi
  · exact exec_commandFor_repeat .forward h hp
  · exact exec_commandFor_repeat .reverse h hp
  · exact exec_s_repeat h

end Sys2Proof.Machine
end

section
/-! PROOFS. The host software: `updatePower()`, the mode toggles and the serial bytes
(49_host_environment.md R171 to R177). -/

namespace Sys2Proof.Machine

/-! ### `updatePower()` (R171) -/

theorem clampPower_natCast (n : Nat) : (clampPower (n : Int)).val = min n 9 := by
  rw [clampPower, if_neg (Int.not_lt.mpr (Int.natCast_nonneg n)), Int.toNat_natCast]
  split
  · show n = min n 9; omega
  · show 9 = min n 9; omega

theorem rampStep_increasing (p : Fin 10) : (rampStep p .increasing).val = min (p.val + 1) 9 :=
  clampPower_natCast (p.val + 1)

theorem rampStep_decreasing (p : Fin 10) : (rampStep p .decreasing).val = p.val - 1 := by
  revert p; decide

theorem rampTurn_of_inside {p : Fin 10} (h0 : 0 < p.val) (h9 : p.val < 9) (r : Ramp) :
    rampTurn p r = r := by
  rw [rampTurn, if_neg (by rintro rfl; simp at h9), if_neg (by rintro rfl; simp at h0)]

namespace HostState

variable {h : HostState} {op : Direction}

theorem updatePower_of_stop (digit : Option (Fin 10)) :
    h.updatePower .stop digit = h.notify .suppressed :=
  rfl

theorem updatePower_of_manual (ho : op ≠ .stop) (hm : h.mode = .manual)
    (digit : Option (Fin 10)) :
    h.updatePower op digit = { h with power := digit.getD h.power } := by
  rw [updatePower, if_neg ho, hm]

theorem updatePower_of_light (ho : op ≠ .stop) (hm : h.mode = .lightControl)
    (digit : Option (Fin 10)) :
    h.updatePower op digit =
      { h with power := clampPower ((h.sensor / lightInterval : Nat) : Int) } := by
  rw [updatePower, if_neg ho, hm]

theorem updatePower_of_time (ho : op ≠ .stop) (hm : h.mode = .timeControl)
    (digit : Option (Fin 10)) :
    h.updatePower op digit =
      { h with
        ramp := rampTurn h.power h.ramp, power := rampStep h.power (rampTurn h.power h.ramp) } := by
  rw [updatePower, if_neg ho, hm]

theorem updatePower_frame (op : Direction) (digit : Option (Fin 10)) (h : HostState) :
    (h.updatePower op digit).mode = h.mode ∧ (h.updatePower op digit).serial = h.serial := by
  unfold updatePower
  split
  · exact ⟨rfl, rfl⟩
  · split <;> exact ⟨rfl, rfl⟩

end HostState

/-- Settles O51, mode by mode; in TIME_CONTROL by the ramp's two ends and its inside. -/
theorem updatePowerResult : Obligations.UpdatePowerResult := by
  intro h op digit
  refine ⟨(h.updatePower_frame op digit).1, ?_, ?_, ?_, ?_⟩
  · rintro rfl
    rw [HostState.updatePower_of_stop]
    exact ⟨rfl, rfl, rfl⟩
  · rintro ho hm d rfl
    rw [HostState.updatePower_of_manual ho hm]
    rfl
  · intro ho hm
    rw [HostState.updatePower_of_light ho hm]
    exact clampPower_natCast _
  · intro ho hm
    rw [HostState.updatePower_of_time ho hm]
    refine ⟨fun h9 => ?_, fun h0 => ?_, fun h0 h9 => ?_⟩
    · rw [show h.power = 9 from Fin.ext h9]
      exact ⟨rfl, rfl⟩
    · rw [show h.power = 0 from Fin.ext h0]
      exact ⟨rfl, rfl⟩
    · rw [rampTurn_of_inside h0 h9]
      refine ⟨rfl, fun hr => ?_, fun hr => ?_⟩
      · rw [hr, rampStep_increasing]; omega
      · rw [hr, rampStep_decreasing]; omega

/-! ### The Mode State Machine (R177) -/

/-- The light trigger in the three modes. -/
theorem toggleMode_lightTrigger (p : HostParams) :
    toggleMode p p.lightTrigger .manual = (.lightControl, some (.modeIs .lightControl)) ∧
    toggleMode p p.lightTrigger .lightControl = (.manual, some (.modeIs .manual)) ∧
    toggleMode p p.lightTrigger .timeControl = (.timeControl, some .triggerIgnored) := by
  simp [toggleMode]

/-- The time trigger in the three modes, when it is not the light trigger. -/
theorem toggleMode_timeTrigger {p : HostParams} (hne : p.lightTrigger ≠ p.timeTrigger) :
    toggleMode p p.timeTrigger .manual = (.timeControl, some (.modeIs .timeControl)) ∧
    toggleMode p p.timeTrigger .lightControl = (.lightControl, some .triggerIgnored) ∧
    toggleMode p p.timeTrigger .timeControl = (.manual, some (.modeIs .manual)) := by
  simp [toggleMode, hne.symm]

/-- An auto mode is left for MANUAL only. -/
theorem toggleMode_auto (p : HostParams) (code : Nat) {m : Mode} (hm : m ≠ .manual) :
    (toggleMode p code m).1 = .manual ∨ (toggleMode p code m).1 = m := by
  unfold toggleMode
  cases m with
  | manual => exact absurd rfl hm
  | lightControl | timeControl => split_ifs <;> simp

/-- Settles O52, trigger by trigger. -/
theorem modeTogglesOnlyThroughManual : Obligations.ModeTogglesOnlyThroughManual := by
  intro p code m hne
  obtain ⟨hlm, hll, hlt⟩ := toggleMode_lightTrigger p
  obtain ⟨htm, htl, htt⟩ := toggleMode_timeTrigger hne
  refine ⟨?_, ?_, ?_, ?_, ?_, ?_, ?_, ?_⟩
  · rintro rfl he
    simpa [he] using toggleMode_auto p code (m := .lightControl) nofun
  · rintro rfl he
    simpa [he] using toggleMode_auto p code (m := .timeControl) nofun
  all_goals
    rintro rfl rfl
    assumption

/-! ### The serial inbox (R172, R175) -/

theorem digitOf_eq_some {b : Byte} {d : Fin 10} (h : b.toNat = 0x30 + d.val) :
    digitOf b = some d := by
  rw [digitOf, dif_pos (by omega), Option.some_inj]
  exact Fin.ext (by simp [h])

theorem digitOf_eq_none {b : Byte} (h : ¬(0x30 ≤ b.toNat ∧ b.toNat ≤ 0x39)) : digitOf b = none := by
  rw [digitOf, dif_neg (by omega)]

theorem exists_digitOf {b : Byte} (h0 : 0x30 ≤ b.toNat) (h9 : b.toNat ≤ 0x39) :
    ∃ d, digitOf b = some d :=
  ⟨⟨b.toNat - 0x30, by omega⟩, digitOf_eq_some (by simp only; omega)⟩

theorem commandWord_eq_none {b : Byte} (hf : b ≠ 0x46#8) (hr : b ≠ 0x52#8) (hs : b ≠ 0x53#8) :
    commandWord b = none := by
  simp [commandWord, isCommandByte, hf, hr, hs]

namespace HostState

variable {h : HostState} {b : Byte}

/-- A digit in MANUAL runs `updatePower()` and offers DRIVE. -/
theorem pollSerial_of_digit (op : Direction) {d : Fin 10} (hb : h.serial = some b)
    (hd : digitOf b = some d) (hm : h.mode = .manual) :
    h.pollSerial op =
      (({ h with serial := none }).updatePower op (some d), some (encode .drive)) := by
  simp only [pollSerial, hb, hd, hm]

/-- A digit outside MANUAL is rejected. -/
theorem pollSerial_of_rejected (op : Direction) {d : Fin 10} (hb : h.serial = some b)
    (hd : digitOf b = some d) (hm : h.mode ≠ .manual) :
    h.pollSerial op =
      ({ h with serial := none, sent := h.sent ++ [.digitRejected] }, none) := by
  cases hm' : h.mode with
  | manual => exact absurd hm' hm
  | lightControl | timeControl => simp only [pollSerial, hb, hd, hm', notify]

/-- A byte that is no digit is offered if it is a command, and dropped if not. -/
theorem pollSerial_of_byte (op : Direction) (hb : h.serial = some b) (hd : digitOf b = none) :
    h.pollSerial op = ({ h with serial := none }, commandWord b) := by
  cases hm : h.mode with
  | manual | lightControl | timeControl => simp only [pollSerial, hb, hd, hm]

/-- A poll that finds a byte empties the inbox and leaves the mode. -/
theorem pollSerial_frame (op : Direction) (hb : h.serial = some b) :
    (h.pollSerial op).1.serial = none ∧ (h.pollSerial op).1.mode = h.mode := by
  cases hd : digitOf b with
  | none => rw [pollSerial_of_byte op hb hd]; exact ⟨rfl, rfl⟩
  | some d =>
    by_cases hm : h.mode = .manual
    · rw [pollSerial_of_digit op hb hd hm]
      obtain ⟨hmode, hserial⟩ := updatePower_frame op (some d) { h with serial := none }
      exact ⟨hserial, hmode⟩
    · rw [pollSerial_of_rejected op hb hd hm]; exact ⟨rfl, rfl⟩

end HostState

/-- Settles O53, by the class of the byte. -/
theorem serialByteRouting : Obligations.SerialByteRouting := by
  intro h op b hb
  obtain ⟨hserial, hmode⟩ := HostState.pollSerial_frame op hb
  refine ⟨hserial, hmode, ?_, ?_, ?_, fun d hd => ⟨fun hm => ?_, fun hm => ?_⟩,
    fun hf hr hs hdigit => ?_⟩
  · rintro rfl; exact HostState.pollSerial_of_byte op hb rfl
  · rintro rfl; exact HostState.pollSerial_of_byte op hb rfl
  · rintro rfl; exact HostState.pollSerial_of_byte op hb rfl
  · rw [HostState.pollSerial_of_digit op hb (digitOf_eq_some hd) hm]
    refine ⟨rfl, fun ho => ?_, fun ho => ?_⟩
    · rw [HostState.updatePower_of_manual (h := { h with serial := none }) ho hm]; rfl
    · rw [ho, HostState.updatePower_of_stop]; rfl
  · exact HostState.pollSerial_of_rejected op hb (digitOf_eq_some hd) hm
  · rw [HostState.pollSerial_of_byte op hb (digitOf_eq_none hdigit), commandWord_eq_none hf hr hs]

end Sys2Proof.Machine
end

section
/-! PROOFS. The environment's move: the notifications, the waits of the host and of an offered word, the
boot order, and the time base (30_encoding.md R80, 49_host_environment.md R173 to R177,
70_reset_and_hazards.md R234). -/

namespace Sys2Proof.Machine

/-! ### A step and the environment's move after it -/

/-- Every step is a cycle that leaves the surroundings, and then the environment's move. -/
theorem step_moves (s : State) :
    ∃ u, SameSurroundings s u ∧ step s = .next (u.advance s.accepted) :=
  let ⟨u, hu⟩ := s.cycle_next
  ⟨u, State.cycle_surroundings hu, step_of_cycle hu⟩

/-- The step `s` to `t` has moved the script on: no word was held back. -/
structure ScriptMoved (s t : State) : Prop where
  cfg : t.cfg = s.cfg
  inp : t.inp =
    (feed s.cfg t.block s.env.host s.env.timeBase s.inp s.env.script).1
  env : t.env =
    (feed s.cfg t.block s.env.host s.env.timeBase s.inp s.env.script).2

/-- A step that holds no word back moves the script on. -/
theorem step_moves_script {s : State} (hfree : s.env.hold = true → s.accepted = true) :
    ∃ t, step s = .next t ∧ ScriptMoved s t := by
  obtain ⟨u, ⟨hcfg, hinp, henv⟩, h⟩ := step_moves s
  have hmove : (u.env.hold && !s.accepted) = false := by
    rw [henv]
    cases hh : s.env.hold with
    | false => rfl
    | true => rw [hfree hh]; rfl
  have hadvance : u.advance s.accepted =
      { u with
        inp := (feed s.cfg u.block s.env.host s.env.timeBase s.inp s.env.script).1
        env := (feed s.cfg u.block s.env.host s.env.timeBase s.inp s.env.script).2 } := by
    rw [State.advance, hmove, hcfg, hinp, henv]
    rfl
  exact ⟨_, h, by rw [hadvance]; exact ⟨hcfg, rfl, rfl⟩⟩

/-- Settles O56: the held word is the environment's other move. -/
theorem offeredWordIsHeld : Obligations.OfferedWordIsHeld := by
  intro s hhold ha
  obtain ⟨u, ⟨hcfg, hinp, henv⟩, h⟩ := step_moves s
  have hadvance : u.advance s.accepted = u.holdWord := by
    rw [State.advance, henv, hhold, ha]
    rfl
  refine ⟨_, h, ?_, ?_⟩
  · rw [hadvance, State.holdWord, hinp, henv]
  · rw [hadvance, State.holdWord, hcfg, henv]

/-! ### The time base, cycle by cycle (R234) -/

/-- One cycle of a time base: it strobes at 0 and starts a period of at least one cycle. -/
theorem nextTimeBase_some (p : HostParams) (k : Nat) :
    nextTimeBase p (some k) = some (if k = 0 then max p.tickCycles 1 - 1 else k - 1) := by
  cases k with
  | zero =>
    rw [nextTimeBase_zero, if_pos rfl]
    congr 1
    omega
  | succ k => rfl

theorem strobes_some (k : Nat) : strobes (some k) = decide (k = 0) := by
  simp [strobes]

/-- A time base that was started goes on. -/
theorem nextTimeBase_ne_none (p : HostParams) {k : Option Nat} (hk : k ≠ none) :
    nextTimeBase p k ≠ none := by
  obtain ⟨k, rfl⟩ := Option.ne_none_iff_exists'.mp hk
  rw [nextTimeBase_some]
  nofun

/-! ### The notifications (R175, R177) -/

theorem State.advance_sent (a : Bool) (s : State) :
    s.env.host.sent <+: (s.advance a).env.host.sent := by
  unfold State.advance
  split
  · exact List.prefix_refl _
  · exact feed_sent _ _ _ _ _ _

/-- A host action that offers nothing and waits for no tick takes no cycle. -/
theorem feed_host_of_noOffer {c : Config} {b : Block} {h h' : HostState} {k : Option Nat}
    {p : Ports} {a : HostAct} {rest : List Line} (hp : b.ph = .idle)
    (ha : h.act c.host b.op a = some (h', none)) (hw : h.waitTicks c.host a = 0) :
    feed c b h k p (.host a :: rest) = feed c b h' k (h'.levels p) rest := by
  have hbusy : b.ph ≠ .settle := by rw [hp]; nofun
  rw [feed, if_neg hbusy, ha]
  simp only [hw]

/-- Settles O54: the environment's move keeps the list, and a poll's notification is in it before the
rest of the script goes on. -/
theorem hostNotificationsAreKept : Obligations.HostNotificationsAreKept := by
  refine ⟨fun s t h => ?_, fun s rest hfree => ?_⟩
  · obtain ⟨u, -, ⟨-, -, henv⟩, rfl⟩ := step_cases h
    exact henv ▸ u.advance_sent s.accepted
  · obtain ⟨t, ht, -, -, henv⟩ := step_moves_script hfree
    refine ⟨t, ht, fun hp => ⟨fun b hs hb hm h0 h9 => ?_, fun code hs hcode => ?_⟩⟩
    · obtain ⟨d, hd⟩ := exists_digitOf h0 h9
      have hact : s.env.host.act s.cfg.host t.block.op .serial =
          some ({ s.env.host with
            serial := none, sent := s.env.host.sent ++ [.digitRejected] }, none) := by
        rw [HostState.act, HostState.pollSerial_of_rejected _ hb hd hm]
      rw [henv, hs, feed_host_of_noOffer hp hact rfl]
      exact feed_sent s.cfg t.block rest { s.env.host with
        serial := none, sent := s.env.host.sent ++ [.digitRejected] } _ _
    · have hsent := s.env.host.pollButton_sent s.cfg.host
      rw [hcode] at hsent
      rw [henv, hs, feed_host_of_noOffer (h' := s.env.host.pollButton s.cfg.host) hp rfl rfl]
      exact hsent ▸ feed_sent _ _ _ _ _ _

/-! ### A wait of the host (R173) -/

/-- A script that is over, or that goes on with a host action. -/
def HostWaits (script : List Line) : Prop := script = [] ∨ ∃ a rest, script = .host a :: rest

/-- While the block is busy such a script stays as it is, and so do the levels. -/
theorem feed_of_hostWaits {b : Block} {script : List Line} (hs : HostWaits script)
    (hp : b.ph = .settle) (c : Config) (h : HostState) (k : Option Nat) (p : Ports) :
    feed c b h k p script = nextCycle c h k p.rest false script := by
  obtain rfl | ⟨a, rest, rfl⟩ := hs
  · rfl
  · rw [feed, if_pos hp]

/-- Settles O55, by what the script leaves in a busy cycle. -/
theorem hostWaitsWhileBusy : Obligations.HostWaitsWhileBusy := by
  intro s a rest hs hfree
  obtain ⟨t, ht, -, hinp, henv⟩ := step_moves_script hfree
  refine ⟨t, ht, fun hp => ?_⟩
  rw [hs, feed_of_hostWaits (.inr ⟨a, rest, rfl⟩) hp] at hinp henv
  rw [hinp, henv]
  simp [Ports.rest]

/-! ### The boot order (R234) -/

/-- A cycle with `rst = 1` resets the block and moves the script on. -/
theorem step_resets {s : State} (hr : s.inp.rst = true) (hhold : s.env.hold = false) :
    ∃ t, step s = .next t ∧ t.block = Block.reset ∧ ScriptMoved s t := by
  obtain ⟨t, ht, hmoved⟩ := step_moves_script (s := s) (by simp [hhold])
  refine ⟨t, ht, ?_, hmoved⟩
  cases ht.symm.trans (step_of_rst hr)
  exact State.advance_block _ _

/-- The second reset cycle of a boot: the boot levels and the time base (R234, steps 2 to 4). -/
theorem feed_boot (c : Config) (b : Block) (h : HostState) (k : Option Nat) (p : Ports) (wait : Nat)
    (rest : List Line) :
    feed c b h k p (.boot :: .startTicks wait :: .reset :: rest) =
      nextCycle c (h.reboot c.host) (some wait) ((h.reboot c.host).levels p).resetting false rest :=
  rfl

/-- Settles O57: two cycles with `rst = 1`, the boot line and the time base between them. -/
theorem hostBootFollowsItsOrder : Obligations.HostBootFollowsItsOrder := by
  intro s wait rest s0
  obtain ⟨t, ht, hblock, hcfg, hinp, henv⟩ := step_resets (s := s0) rfl rfl
  have hscript : s0.env.script = .boot :: .startTicks wait :: .reset :: rest := rfl
  rw [hscript, feed_boot] at hinp henv
  obtain ⟨u, hu, hblock', -, hinp', henv'⟩ :=
    step_resets (s := t) (by rw [hinp]; rfl) (by rw [henv]; rfl)
  refine ⟨rfl, rfl, t, ht, hblock, ?_⟩
  rw [hinp, henv]
  refine ⟨rfl, rfl, rfl, rfl, rfl, rfl, rfl, rfl, rfl, ?_, nextTimeBase_ne_none _ nofun, rfl, u,
    hu, hblock', ?_⟩
  · exact strobes_some wait
  · rintro rfl
    rw [henv', hinp', henv, hinp]
    exact ⟨rfl, rfl, rfl, nextTimeBase_ne_none _ (nextTimeBase_ne_none _ nofun)⟩

/-! ### The period of the time base (R234, R245) -/

/-- In a period `m` that has just begun, the strobes are one cycle earlier. -/
theorem strobe_after_wrap {m n : Nat} (hm : 1 ≤ m) :
    (m - 1 ≤ n ∧ (n - (m - 1)) % m = 0) ↔ (n + 1) % m = 0 := by
  by_cases h : m - 1 ≤ n
  · have e : n + 1 = n - (m - 1) + m := by omega
    rw [e, Nat.add_mod_right]
    simp [h]
  · rw [Nat.mod_eq_of_lt (by omega : n + 1 < m)]
    omega

/-- Settles O58, by induction on the cycles. -/
theorem timeBaseKeepsItsPeriod : Obligations.TimeBaseKeepsItsPeriod := by
  intro s k n hs hhold hk
  induction n generalizing s k with
  | zero =>
    obtain ⟨t, ht, -, hinp, -⟩ := step_moves_script (s := s) (by simp [hhold])
    refine ⟨t, run_succ 0 ht, ?_⟩
    rw [hinp, hs, hk, feed, nextCycle_ports, Ports.strobed_tick, strobes_some]
    simp [Ports.rest]
  | succ n ih =>
    obtain ⟨t, ht, hcfg, -, henv⟩ := step_moves_script (s := s) (by simp [hhold])
    rw [hs, hk, feed, nextCycle_env, nextTimeBase_some] at henv
    obtain ⟨u, hu, htick⟩ := ih t _ (by rw [henv]) (by rw [henv]) (by rw [henv])
    refine ⟨u, (run_succ (n + 1) ht).trans hu, htick.trans ?_⟩
    rw [hcfg]
    cases k with
    | zero => simpa using strobe_after_wrap (le_max_right _ 1)
    | succ k => simp

/-! ### A reversal under a running time base (R173, R234) -/

/-- A settle phase towards `d` in which the script waits and the next strobe comes after `k` cycles. -/
structure AwaitsStrobe (d : Turn) (k : Nat) (s : State) : Prop where
  ph : s.block.ph = .settle
  tgt : s.block.tgt = some d
  rst : s.inp.rst = false
  hold : s.env.hold = false
  timeBase : s.env.timeBase = some k
  script : HostWaits s.env.script

/-- A cycle of such a phase that does not end it counts its tick and brings the next strobe nearer. -/
theorem AwaitsStrobe.step {d : Turn} {k : Nat} {s : State} (h : AwaitsStrobe d k s)
    (hc : s.block.cnt ≠ 0#16) :
    ∃ t, Machine.step s = .next t ∧ t.cfg = s.cfg ∧
      AwaitsStrobe d (if k = 0 then max s.cfg.host.tickCycles 1 - 1 else k - 1) t ∧
      t.block.cnt.toNat = s.block.cnt.toNat - s.inp.tick.toNat ∧ t.inp.tick = decide (k = 0) := by
  obtain ⟨t, ht, hcfg, hinp, henv⟩ := step_moves_script (s := s) (by simp [h.hold])
  have hblock : t.block =
      { s.block.quiet with cnt := s.block.cnt - BitVec.ofNat 16 s.inp.tick.toNat } := by
    cases ht.symm.trans (step_of_settle h.rst h.ph)
    rw [State.advance_block, State.settleStep_block_of_counting hc]
  have hp : t.block.ph = .settle := by rw [hblock]; exact h.ph
  rw [feed_of_hostWaits h.script hp, h.timeBase] at hinp henv
  rw [nextCycle_env, nextTimeBase_some] at henv
  rw [nextCycle_ports] at hinp
  refine ⟨t, ht, hcfg, ⟨hp, ?_, ?_, ?_, ?_, ?_⟩, ?_, ?_⟩
  · rw [hblock]; exact h.tgt
  · rw [hinp]; rfl
  · rw [henv]
  · rw [henv]
  · rw [henv]; exact h.script
  · rw [hblock]; exact toNat_count_sub_tick hc _
  · rw [hinp, Ports.strobed_tick, strobes_some]; rfl

/-- How many cycles a settle phase still takes at most: `cnt` ticks to count, `tick` of them in the
present cycle, the next strobe after `k` cycles, and one strobe every `m` cycles. -/
def strobeBound (m k cnt tick : Nat) : Nat := if cnt = 0 then 1 else k + (cnt - tick) * m + 2

/-- A cycle that does not end the phase brings the bound down. -/
theorem strobeBound_step {m k cnt tick : Nat} (hm : 1 ≤ m) (hc : cnt ≠ 0) :
    strobeBound m (if k = 0 then m - 1 else k - 1) (cnt - tick) (decide (k = 0)).toNat + 1 ≤
      strobeBound m k cnt tick := by
  unfold strobeBound
  rw [if_neg hc]
  by_cases h0 : cnt - tick = 0
  · rw [if_pos h0]; omega
  · rw [if_neg h0]
    cases k with
    | zero =>
      obtain ⟨r, hr⟩ := Nat.exists_eq_succ_of_ne_zero h0
      rw [hr, Nat.succ_mul]
      simp only [if_true, decide_true, Bool.toNat_true, Nat.succ_sub_one]
      omega
    | succ k =>
      simp only [Nat.succ_ne_zero, if_false, decide_false, Bool.toNat_false, Nat.sub_zero]
      omega

/-- A settle phase under a running time base ends within the bound. -/
theorem AwaitsStrobe.ends {d : Turn} {N k : Nat} {s : State} (h : AwaitsStrobe d k s)
    (hN : strobeBound (max s.cfg.host.tickCycles 1) k s.block.cnt.toNat s.inp.tick.toNat ≤ N) :
    ∃ n ≤ N, ∃ t, run n s = .next t ∧ t.block.op = d.toDirection ∧ t.block.ph = .idle := by
  induction N generalizing s k with
  | zero => unfold strobeBound at hN; split at hN <;> omega
  | succ N ih =>
    by_cases hc : s.block.cnt = 0#16
    · have hdone : s.settleStep = s.completeSettle := if_pos hc
      have hstep := step_of_settle h.rst h.ph
      refine ⟨1, by omega, _, run_succ 0 hstep, ?_⟩
      rw [State.advance_block, hdone, State.completeSettle_block, h.tgt]
      exact ⟨rfl, rfl⟩
    · obtain ⟨t, ht, hcfg, hawaits, hcnt, htick⟩ := h.step hc
      have hc' : s.block.cnt.toNat ≠ 0 := fun h0 => hc (BitVec.eq_of_toNat_eq h0)
      have hbound := strobeBound_step (k := k) (tick := s.inp.tick.toNat)
        (le_max_right s.cfg.host.tickCycles 1) hc'
      obtain ⟨n, hn, u, hu, hdone⟩ := ih hawaits (by rw [hcfg, hcnt, htick]; omega)
      exact ⟨n + 1, by omega, u, (run_succ n ht).trans hu, hdone⟩

/-- Settles O59: the bound from the present cycle is at most the statement's. -/
theorem hostReversalEnds : Obligations.HostReversalEnds := by
  intro s d k _ hp hd hr hhold hk hs
  refine AwaitsStrobe.ends ⟨hp, hd, hr, hhold, hk, hs⟩ ?_
  unfold strobeBound
  split
  · omega
  · have hle := Nat.mul_le_mul_right (max s.cfg.host.tickCycles 1)
      (Nat.sub_le s.block.cnt.toNat s.inp.tick.toNat)
    omega

end Sys2Proof.Machine
end
